-- ==== Sys2Proof/Word.lean ====
section
/-! DEFINITION. The machine's word types (spec/00_scope.md R4, R6): all values are unsigned. -/

namespace Sys2Proof

/-- An 8-bit value: a memory cell, a general register, a timer (R4). -/
abbrev Byte := BitVec 8

/-- A 16-bit value: an opcode, `I`, `pc`, a stack slot (R4). -/
abbrev Word := BitVec 16

/-- A 12-bit address operand, `NNN` (30_encoding.md R51). -/
abbrev Addr := BitVec 12

/-- A register number, the `X` or `Y` field (10_state.md R11): 0..15. -/
abbrev RegIx := Fin 16

/-- A count operand, the `N` field (30_encoding.md R53): 0..15. -/
abbrev Count := Fin 16

/-- VF, the flag register (10_state.md R12). -/
abbrev vF : RegIx := 15

end Sys2Proof
end

