-- ==== Sys2Proof/Config.lean ====
section
/-! DEFINITION. What one implementation fixes (00_scope.md R5), as a record that a state carries, and the one
free value of the machine (46_ext_keypad_timer_random.md R125). The default of each parameter stands in
Machine/Defaults.lean. -/

namespace Sys2Proof

/-- `ISA_PROFILE` (R5): the 8 instructions of files 41 to 43, or those and the 26 of files 44 to 47. -/
inductive Profile where
  | source8
  | full
  deriving DecidableEq, Repr

/-- `FAULT_PC` (R5; 60_exceptions.md R175): what an execute-stage fault does to `pc`. -/
inductive FaultPc where
  | advance
  | hold
  deriving DecidableEq, Repr

/-- `Q_SHIFT_SRC` (R5; 45_ext_alu.md R116, R118): the register that 8XY6 and 8XYE shift. -/
inductive ShiftSrc where
  | vy
  | vx
  deriving DecidableEq, Repr

/-- `FONT[0..79]` (70_reset_and_hazards.md R202). -/
abbrev Font := Vector Byte 80

/-- The open parameters of one machine. No command changes them. -/
structure Config where
  profile : Profile
  faultPc : FaultPc
  shiftSrc : ShiftSrc
  /-- `Q_LOGIC_VF_RESET` (45_ext_alu.md R111 to R113) -/
  logicVfReset : Bool
  /-- `Q_MEM_I_INCREMENT` (47_ext_index_memory.md R138, R139) -/
  memIIncrement : Bool
  font : Font
  deriving DecidableEq, Repr

/-- `rnd()` of R125: the n-th random byte. A FREE VALUE: it has no body, so nothing about it can be proved and
every claim holds whatever bytes the machine draws (log entry 10). -/
opaque Config.rnd : Nat → Byte

end Sys2Proof
end

