-- ==== Sys2Proof/Syntax.lean ====
section
/-! DEFINITION. The instructions: one constructor per row of spec/opcode_table.json (30_encoding.md R54, R55),
in the table's order. -/

namespace Sys2Proof

inductive Instr where
  /-- 00E0 CLS -/
  | cls
  /-- 00EE RET -/
  | ret
  /-- 1NNN JP NNN -/
  | jp (nnn : Addr)
  /-- 2NNN CALL NNN -/
  | call (nnn : Addr)
  /-- 6XKK LD VX, KK -/
  | ldVxKk (x : RegIx) (kk : Byte)
  /-- 7XKK ADD VX, KK -/
  | addVxKk (x : RegIx) (kk : Byte)
  /-- ANNN LD I, NNN -/
  | ldINnn (nnn : Addr)
  /-- DXYN DRW VX, VY, N -/
  | drw (x y : RegIx) (n : Count)
  /-- 3XKK SE VX, KK -/
  | seVxKk (x : RegIx) (kk : Byte)
  /-- 4XKK SNE VX, KK -/
  | sneVxKk (x : RegIx) (kk : Byte)
  /-- 5XY0 SE VX, VY -/
  | seVxVy (x y : RegIx)
  /-- 8XY0 LD VX, VY -/
  | ldVxVy (x y : RegIx)
  /-- 8XY1 OR VX, VY -/
  | orVxVy (x y : RegIx)
  /-- 8XY2 AND VX, VY -/
  | andVxVy (x y : RegIx)
  /-- 8XY3 XOR VX, VY -/
  | xorVxVy (x y : RegIx)
  /-- 8XY4 ADD VX, VY -/
  | addVxVy (x y : RegIx)
  /-- 8XY5 SUB VX, VY -/
  | subVxVy (x y : RegIx)
  /-- 8XY6 SHR VX, VY -/
  | shrVxVy (x y : RegIx)
  /-- 8XY7 SUBN VX, VY -/
  | subnVxVy (x y : RegIx)
  /-- 8XYE SHL VX, VY -/
  | shlVxVy (x y : RegIx)
  /-- 9XY0 SNE VX, VY -/
  | sneVxVy (x y : RegIx)
  /-- BNNN JP V0, NNN -/
  | jpV0Nnn (nnn : Addr)
  /-- CXKK RND VX, KK -/
  | rndVxKk (x : RegIx) (kk : Byte)
  /-- EX9E SKP VX -/
  | skpVx (x : RegIx)
  /-- EXA1 SKNP VX -/
  | sknpVx (x : RegIx)
  /-- FX07 LD VX, DT -/
  | ldVxDt (x : RegIx)
  /-- FX0A LD VX, K -/
  | ldVxK (x : RegIx)
  /-- FX15 LD DT, VX -/
  | ldDtVx (x : RegIx)
  /-- FX18 LD ST, VX -/
  | ldStVx (x : RegIx)
  /-- FX1E ADD I, VX -/
  | addIVx (x : RegIx)
  /-- FX29 LD F, VX -/
  | ldFVx (x : RegIx)
  /-- FX33 LD B, VX -/
  | ldBVx (x : RegIx)
  /-- FX55 LD [I], VX -/
  | ldMemVx (x : RegIx)
  /-- FX65 LD VX, [I] -/
  | ldVxMem (x : RegIx)
  deriving DecidableEq, Repr

end Sys2Proof
end

