-- ==== Sys2Proof/WellFormed.lean ====
section
/-! DEFINITION. Which instructions a profile has (00_scope.md R5; 30_encoding.md R54, R55). Every operand field is
as wide as its type (30_encoding.md R51, R53), so the profile is the only check there is. -/

namespace Sys2Proof

/-- The eight rows of R54, those of both profiles. -/
def Instr.inSource8 : Instr → Bool
  | .cls | .ret | .jp _ | .call _ | .ldVxKk _ _ | .addVxKk _ _ | .ldINnn _ | .drw _ _ _ => true
  | .seVxKk _ _ | .sneVxKk _ _ | .seVxVy _ _ | .ldVxVy _ _ | .orVxVy _ _ | .andVxVy _ _ | .xorVxVy _ _
  | .addVxVy _ _ | .subVxVy _ _ | .shrVxVy _ _ | .subnVxVy _ _ | .shlVxVy _ _ | .sneVxVy _ _ | .jpV0Nnn _
  | .rndVxKk _ _ | .skpVx _ | .sknpVx _ | .ldVxDt _ | .ldVxK _ | .ldDtVx _ | .ldStVx _ | .addIVx _ | .ldFVx _
  | .ldBVx _ | .ldMemVx _ | .ldVxMem _ => false

/-- An instruction is well formed for a profile iff the profile's opcode table has its row. -/
def Instr.wellFormed (p : Profile) (i : Instr) : Bool :=
  match p with
  | .source8 => i.inSource8
  | .full => true

end Sys2Proof
end

