-- ==== Sys2Proof/Decode.lean ====
section
/-! DEFINITION. The decoder (30_encoding.md R50 to R57, R62) and, after it, the encoder. -/

namespace Sys2Proof

/-! ## Fields of an opcode (R51) -/

/-- The high nibble, `op[15:12]`. -/
def family (op : Word) : BitVec 4 := op.extractLsb' 12 4

/-- `NNN = op[11:0]`. -/
def fieldNNN (op : Word) : Addr := op.extractLsb' 0 12

/-- `KK = op[7:0]`. -/
def fieldKK (op : Word) : Byte := op.extractLsb' 0 8

/-- `X = op[11:8]`. -/
def fieldX (op : Word) : RegIx := (op.extractLsb' 8 4).toFin

/-- `Y = op[7:4]`. -/
def fieldY (op : Word) : RegIx := (op.extractLsb' 4 4).toFin

/-- `N = op[3:0]`. -/
def fieldN (op : Word) : Count := (op.extractLsb' 0 4).toFin

/-! ## Decoding -/

/-- Why the decoder gives no instruction. -/
inductive Reject where
  /-- the opcode matches no row of the profile's table (R56) -/
  | unrecognizedOpcode
  /-- fewer than the two bytes every instruction has (R50); a fetch never gives this -/
  | truncated
  deriving DecidableEq, Repr

/-- Family 8, by `op[3:0]` (R55). -/
def decodeAlu (op : Word) : Option Instr :=
  match (fieldN op).val with
  | 0x0 => some (.ldVxVy (fieldX op) (fieldY op))
  | 0x1 => some (.orVxVy (fieldX op) (fieldY op))
  | 0x2 => some (.andVxVy (fieldX op) (fieldY op))
  | 0x3 => some (.xorVxVy (fieldX op) (fieldY op))
  | 0x4 => some (.addVxVy (fieldX op) (fieldY op))
  | 0x5 => some (.subVxVy (fieldX op) (fieldY op))
  | 0x6 => some (.shrVxVy (fieldX op) (fieldY op))
  | 0x7 => some (.subnVxVy (fieldX op) (fieldY op))
  | 0xE => some (.shlVxVy (fieldX op) (fieldY op))
  | _ => none

/-- Family E, by `op[7:0]` (R55). -/
def decodeKey (op : Word) : Option Instr :=
  match (fieldKK op).toNat with
  | 0x9E => some (.skpVx (fieldX op))
  | 0xA1 => some (.sknpVx (fieldX op))
  | _ => none

/-- Family F, by `op[7:0]` (R55). -/
def decodeMisc (op : Word) : Option Instr :=
  match (fieldKK op).toNat with
  | 0x07 => some (.ldVxDt (fieldX op))
  | 0x0A => some (.ldVxK (fieldX op))
  | 0x15 => some (.ldDtVx (fieldX op))
  | 0x18 => some (.ldStVx (fieldX op))
  | 0x1E => some (.addIVx (fieldX op))
  | 0x29 => some (.ldFVx (fieldX op))
  | 0x33 => some (.ldBVx (fieldX op))
  | 0x55 => some (.ldMemVx (fieldX op))
  | 0x65 => some (.ldVxMem (fieldX op))
  | _ => none

/-- The 34 rows of R54 and R55: "Partition the opcode by its high nibble (bits 12–15) into instruction families,
then further by sub-fields" (R62), every fixed nibble checked (R55, R57). -/
def decodeRow (op : Word) : Option Instr :=
  match (family op).toNat with
  | 0x0 => if op = 0x00E0 then some .cls else if op = 0x00EE then some .ret else none
  | 0x1 => some (.jp (fieldNNN op))
  | 0x2 => some (.call (fieldNNN op))
  | 0x3 => some (.seVxKk (fieldX op) (fieldKK op))
  | 0x4 => some (.sneVxKk (fieldX op) (fieldKK op))
  | 0x5 => if fieldN op = 0 then some (.seVxVy (fieldX op) (fieldY op)) else none
  | 0x6 => some (.ldVxKk (fieldX op) (fieldKK op))
  | 0x7 => some (.addVxKk (fieldX op) (fieldKK op))
  | 0x8 => decodeAlu op
  | 0x9 => if fieldN op = 0 then some (.sneVxVy (fieldX op) (fieldY op)) else none
  | 0xA => some (.ldINnn (fieldNNN op))
  | 0xB => some (.jpV0Nnn (fieldNNN op))
  | 0xC => some (.rndVxKk (fieldX op) (fieldKK op))
  | 0xD => some (.drw (fieldX op) (fieldY op) (fieldN op))
  | 0xE => decodeKey op
  | _ => decodeMisc op

/-- `decode(op)` of R62 for a profile: the row's instruction if the profile has it, else rejected by name. -/
def decode (p : Profile) (op : Word) : Except Reject Instr :=
  match decodeRow op with
  | some i => if i.wellFormed p then .ok i else .error .unrecognizedOpcode
  | none => .error .unrecognizedOpcode

/-- Decoding from memory's bytes, high byte first (20_memory.md R33): the instruction and the bytes after it. -/
def decodeBytes (p : Profile) : List Byte → Except Reject (Instr × List Byte)
  | hi :: lo :: rest =>
    match decode p (hi ++ lo) with
    | .ok i => .ok (i, rest)
    | .error r => .error r
  | _ => .error .truncated

/-- The instruction the decoder reads from an opcode-table word: the word's two bytes laid out as memory holds them,
decoded in the profile that has every row. -/
def decodeTableWord (nbits w : Nat) : Option Instr :=
  let op : Word := BitVec.ofNat 16 (w % 2 ^ nbits)
  match decodeBytes .full [op.extractLsb' 8 8, op.extractLsb' 0 8] with
  | .ok (i, _) => some i
  | .error _ => none

/-! ## Encoding (R52) -/

/-- A register number as the nibble it stands in. -/
def nibble (x : Fin 16) : BitVec 4 := BitVec.ofFin x

/-- Format NNN. -/
def wordNNN (fam : BitVec 4) (nnn : Addr) : Word := fam ++ nnn

/-- Format XKK. -/
def wordXKK (fam : BitVec 4) (x : RegIx) (kk : Byte) : Word := fam ++ (nibble x ++ kk)

/-- Formats XYN and XY_. -/
def wordXYN (fam : BitVec 4) (x y n : Fin 16) : Word := fam ++ (nibble x ++ (nibble y ++ nibble n))

/-- The word of an instruction. -/
def encode : Instr → Word
  | .cls => 0x00E0
  | .ret => 0x00EE
  | .jp nnn => wordNNN 0x1 nnn
  | .call nnn => wordNNN 0x2 nnn
  | .seVxKk x kk => wordXKK 0x3 x kk
  | .sneVxKk x kk => wordXKK 0x4 x kk
  | .seVxVy x y => wordXYN 0x5 x y 0x0
  | .ldVxKk x kk => wordXKK 0x6 x kk
  | .addVxKk x kk => wordXKK 0x7 x kk
  | .ldVxVy x y => wordXYN 0x8 x y 0x0
  | .orVxVy x y => wordXYN 0x8 x y 0x1
  | .andVxVy x y => wordXYN 0x8 x y 0x2
  | .xorVxVy x y => wordXYN 0x8 x y 0x3
  | .addVxVy x y => wordXYN 0x8 x y 0x4
  | .subVxVy x y => wordXYN 0x8 x y 0x5
  | .shrVxVy x y => wordXYN 0x8 x y 0x6
  | .subnVxVy x y => wordXYN 0x8 x y 0x7
  | .shlVxVy x y => wordXYN 0x8 x y 0xE
  | .sneVxVy x y => wordXYN 0x9 x y 0x0
  | .ldINnn nnn => wordNNN 0xA nnn
  | .jpV0Nnn nnn => wordNNN 0xB nnn
  | .rndVxKk x kk => wordXKK 0xC x kk
  | .drw x y n => wordXYN 0xD x y n
  | .skpVx x => wordXKK 0xE x 0x9E
  | .sknpVx x => wordXKK 0xE x 0xA1
  | .ldVxDt x => wordXKK 0xF x 0x07
  | .ldVxK x => wordXKK 0xF x 0x0A
  | .ldDtVx x => wordXKK 0xF x 0x15
  | .ldStVx x => wordXKK 0xF x 0x18
  | .addIVx x => wordXKK 0xF x 0x1E
  | .ldFVx x => wordXKK 0xF x 0x29
  | .ldBVx x => wordXKK 0xF x 0x33
  | .ldMemVx x => wordXKK 0xF x 0x55
  | .ldVxMem x => wordXKK 0xF x 0x65

/-- The two bytes of an instruction as memory holds them, high byte first (20_memory.md R33). -/
def encodeBytes (i : Instr) : List Byte := [(encode i).extractLsb' 8 8, (encode i).extractLsb' 0 8]

/-! ## The opcode table (R54, R55), as masks and matches -/

/-- One row: an opcode is the row's instruction iff `(op & mask) = match` (R54). -/
structure OpcodeRow where
  mask : Word
  value : Word
  source8 : Bool
  deriving DecidableEq, Repr

/-- The opcode has the row's fixed bits. -/
def OpcodeRow.admits (r : OpcodeRow) (op : Word) : Bool := op &&& r.mask == r.value

/-- The rows of R54 and then those of R55. -/
def opcodeRows : List OpcodeRow :=
  [⟨0xFFFF, 0x00E0, true⟩, ⟨0xFFFF, 0x00EE, true⟩, ⟨0xF000, 0x1000, true⟩, ⟨0xF000, 0x2000, true⟩,
   ⟨0xF000, 0x6000, true⟩, ⟨0xF000, 0x7000, true⟩, ⟨0xF000, 0xA000, true⟩, ⟨0xF000, 0xD000, true⟩] ++
  [⟨0xF000, 0x3000, false⟩, ⟨0xF000, 0x4000, false⟩, ⟨0xF00F, 0x5000, false⟩, ⟨0xF00F, 0x8000, false⟩,
   ⟨0xF00F, 0x8001, false⟩, ⟨0xF00F, 0x8002, false⟩, ⟨0xF00F, 0x8003, false⟩, ⟨0xF00F, 0x8004, false⟩,
   ⟨0xF00F, 0x8005, false⟩, ⟨0xF00F, 0x8006, false⟩, ⟨0xF00F, 0x8007, false⟩, ⟨0xF00F, 0x800E, false⟩,
   ⟨0xF00F, 0x9000, false⟩, ⟨0xF000, 0xB000, false⟩, ⟨0xF000, 0xC000, false⟩, ⟨0xF0FF, 0xE09E, false⟩,
   ⟨0xF0FF, 0xE0A1, false⟩] ++
  [⟨0xF0FF, 0xF007, false⟩, ⟨0xF0FF, 0xF00A, false⟩, ⟨0xF0FF, 0xF015, false⟩, ⟨0xF0FF, 0xF018, false⟩,
   ⟨0xF0FF, 0xF01E, false⟩, ⟨0xF0FF, 0xF029, false⟩, ⟨0xF0FF, 0xF033, false⟩, ⟨0xF0FF, 0xF055, false⟩,
   ⟨0xF0FF, 0xF065, false⟩]

/-- The rows a profile has. -/
def profileRows (p : Profile) : List OpcodeRow :=
  match p with
  | .source8 => opcodeRows.filter (·.source8)
  | .full => opcodeRows

end Sys2Proof
end

