-- ==== Sys2Proof/Machine/Defaults.lean ====
section
/-! DEFINITION. The values of the configuration that `State.reset` carries: the default the spec gives each open
parameter (00_scope.md R5) and the customary fontset (70_reset_and_hazards.md R202). -/

namespace Sys2Proof.Machine

/-- The fontset table of R202, glyphs 0 to F, 5 bytes each. UNVERIFIED: the spec gives it as general knowledge
(log entry 9). -/
def defaultFont : Font :=
  #v[0xF0, 0x90, 0x90, 0x90, 0xF0,
     0x20, 0x60, 0x20, 0x20, 0x70,
     0xF0, 0x10, 0xF0, 0x80, 0xF0,
     0xF0, 0x10, 0xF0, 0x10, 0xF0,
     0x90, 0x90, 0xF0, 0x10, 0x10,
     0xF0, 0x80, 0xF0, 0x10, 0xF0,
     0xF0, 0x80, 0xF0, 0x90, 0xF0,
     0xF0, 0x10, 0x20, 0x40, 0x40,
     0xF0, 0x90, 0xF0, 0x90, 0xF0,
     0xF0, 0x90, 0xF0, 0x10, 0xF0,
     0xF0, 0x90, 0xF0, 0x90, 0x90,
     0xE0, 0x90, 0xE0, 0x90, 0xE0,
     0xF0, 0x80, 0x80, 0x80, 0xF0,
     0xE0, 0x90, 0x90, 0x90, 0xE0,
     0xF0, 0x80, 0xF0, 0x80, 0xF0,
     0xF0, 0x80, 0xF0, 0x80, 0x80]

/-- The defaults of R5 (log entries 4 to 9). -/
def defaultConfig : Config where
  profile := .full
  faultPc := .advance
  shiftSrc := .vy
  logicVfReset := true
  memIIncrement := true
  font := defaultFont

end Sys2Proof.Machine
end

