-- ==== Sys2Proof/Machine/State.lean ====
section
/-! DEFINITION. The machine's state (10_state.md R10 to R24), why a step can stop, and the state after reset. -/

namespace Sys2Proof.Machine

/-- The fault outcomes of `step` (60_exceptions.md R170). The core does not stop on one: it returns the fault to the
host and is ready for the next step (40_step_cycle.md R76, 60_exceptions.md R189). So `step` answers a next state
whose `outcome` is the fault, and never `Outcome.fault` (log entry 1); that is exact where the spec gives the state
after the fault, which it does for all five. -/
inductive Fault where
  /-- Raised by the decode stage of `step` for an opcode of no row (R171). Safe: the state after it is the spec's. -/
  | unrecognizedOpcode
  /-- Raised by 2NNN with `sp = 16` (R172). Safe: both values of FAULT_PC are modelled. -/
  | stackOverflow
  /-- Raised by 00EE with `sp = 0` (R173). Safe: both values of FAULT_PC are modelled. -/
  | stackUnderflow
  /-- Raised by the fetch stage of `step` with `pc ≥ 4095` (R174). Safe: the state after it is the spec's. -/
  | programCounterOutOfBounds
  /-- Raised by DXYN, FX33, FX55, FX65 whose run leaves memory (R176). Unsafe where a real instance wraps or drops
  the access instead: the fault is the spec's own decision D7 (log entry 13). -/
  | memoryOutOfBounds
  deriving DecidableEq, Repr

/-- Why the model gives no meaning. -/
inductive Refusal where
  /-- An arm of `exec` without a meaning. Raised by nothing: every instruction has its meaning. -/
  | notModelled (mnemonic : String)
  /-- Raised by every host command but `reset` on the power-on state, which holds no value (10_state.md R27). Safe. -/
  | commandBeforeReset
  /-- Raised by the host command `SetKey` with an index above 15, which the interface cannot express
  (50_host_interface.md R153). Safe. -/
  | keyIndexOutOfRange (index : Nat)
  deriving DecidableEq, Repr

/-- What a `step` returns (50_host_interface.md R157): a bare tag, no payload. -/
inductive StepOutcome where
  | ok
  | fault (f : Fault)
  deriving DecidableEq, Repr

/-- `gfx[y][x]`, row `y` 0..31 from the top, column `x` 0..63 from the left, `true` = on (R20). -/
abbrev Gfx := Vector (Vector Bool 64) 32

/-- Memory: the cells whose content differs from their reset content, by rising address (R21; log entry 25). -/
abbrev Memory := List Host.Cell

/-- The state of the core (R10), and after `mem` the model's own three fields. -/
structure State where
  /-- V0..VF (R11) -/
  v : Vector Byte 16
  /-- the index register I (R13) -/
  i : Word
  /-- the program counter (R14) -/
  pc : Word
  /-- the call stack, outside memory (R15) -/
  stack : Vector Word 16
  /-- how many return addresses the stack holds, 0..16 (R16) -/
  sp : Fin 17
  /-- the delay timer (R17) -/
  dt : Byte
  /-- the sound timer (R18) -/
  st : Byte
  /-- the keypad flags, `true` = pressed (R19) -/
  key : Vector Bool 16
  /-- the pixel buffer (R20) -/
  gfx : Gfx
  /-- memory (R21) -/
  mem : Memory
  /-- the model's own: the value the last `step` returned (log entry 2) -/
  outcome : StepOutcome
  /-- the model's own: how many random bytes were drawn (log entry 10) -/
  draws : Nat
  /-- the model's own: the configuration, which no command changes (log entry 3) -/
  cfg : Config
  deriving DecidableEq, Repr

/-- The state after the `reset` command (R24; 70_reset_and_hazards.md R200) of a machine of configuration `cfg` that
has drawn `draws` random bytes. No cell of memory is listed, so each reads as its reset content. -/
def State.resetWith (cfg : Config) (draws : Nat) : State where
  v := Vector.replicate 16 0
  i := 0
  pc := 0x200
  stack := Vector.replicate 16 0
  sp := 0
  dt := 0
  st := 0
  key := Vector.replicate 16 false
  gfx := Vector.replicate 32 (Vector.replicate 64 false)
  mem := []
  outcome := .ok
  draws := draws
  cfg := cfg

/-- The machine right after its first reset, at the default configuration. -/
def State.reset : State := State.resetWith defaultConfig 0

end Sys2Proof.Machine
end

