-- ==== Sys2Proof/Machine/Ops.lean ====
section
/-! DEFINITION. The shared operations: memory, registers, stack, pixels, how an instruction ends, and raising a
fault. -/

namespace Sys2Proof.Machine

/-! ## Memory (20_memory.md) -/

/-- The reset content of a cell (10_state.md R24): the fontset at 0x050..0x09F, zero elsewhere. It is what a cell
that memory does not list reads as. -/
def resetByte (font : Font) (a : Nat) : Byte :=
  if h : 0x050 ≤ a ∧ a < 0x0A0 then font[a - 0x050]'(by omega) else 0

/-- The listed content of a cell, if it is listed. -/
def Memory.lookup : Memory → Nat → Option Byte
  | [], _ => none
  | (k, b) :: m, a => if k = a then some b else Memory.lookup m a

/-- The content of cell `a`. -/
def Memory.read (font : Font) (m : Memory) (a : Nat) : Byte :=
  (m.lookup a).getD (resetByte font a)

/-- List cell `a` with content `b`, in its place by address. -/
def Memory.insert (a : Nat) (b : Byte) : Memory → Memory
  | [] => [(a, b)]
  | (k, c) :: m =>
    if a < k then (a, b) :: (k, c) :: m
    else if a = k then (a, b) :: m
    else (k, c) :: Memory.insert a b m

/-- Take cell `a` off the list. -/
def Memory.erase (a : Nat) (m : Memory) : Memory := m.filter fun c => c.1 != a

/-- `mem[a] <- b`, keeping the canonical form: a cell at its reset content is not listed. -/
def Memory.write (font : Font) (m : Memory) (a : Nat) (b : Byte) : Memory :=
  if b = resetByte font a then m.erase a else m.insert a b

/-- The canonical form: addresses strictly rising, all of them addresses of the machine, and no entry equal to its
cell's reset content. -/
def Memory.wf (font : Font) : Memory → Bool
  | [] => true
  | (k, b) :: m =>
    decide (k < 4096) && (b != resetByte font k) && m.all (fun c => decide (k < c.1)) && Memory.wf font m

/-- `mem[a]`. -/
def State.cell (s : State) (a : Nat) : Byte := s.mem.read s.cfg.font a

/-- `mem[a] <- b`. -/
def State.setCell (s : State) (a : Nat) (b : Byte) : State := { s with mem := s.mem.write s.cfg.font a b }

/-- `mem[a] <- bs[0]`, `mem[a + 1] <- bs[1]`, ... -/
def State.setCells (s : State) (a : Nat) : List Byte → State
  | [] => s
  | b :: bs => (s.setCell a b).setCells (a + 1) bs

/-- `MemRead(addr, 1)` (R49). -/
def State.memRead (s : State) (a : Nat) : Except Fault Byte :=
  if a > 0xFFF then .error .memoryOutOfBounds else .ok (s.cell a)

/-- `MemWrite(addr, 1, v)` (R49). -/
def State.memWrite (s : State) (a : Nat) (b : Byte) : Except Fault State :=
  if a > 0xFFF then .error .memoryOutOfBounds else .ok (s.setCell a b)

/-- `MemRead` of the `n` bytes from `a` up. It raises iff one of them lies outside memory (R38). -/
def State.memReadRun (s : State) (a : Nat) : Nat → Except Fault (List Byte)
  | 0 => .ok []
  | n + 1 =>
    match s.memRead a with
    | .error f => .error f
    | .ok b =>
      match s.memReadRun (a + 1) n with
      | .error f => .error f
      | .ok bs => .ok (b :: bs)

/-- `MemWrite` of the bytes from `a` up. A raise leaves no state, so it leaves no partial write (R38; 00_scope.md
R9). -/
def State.memWriteRun (s : State) (a : Nat) : List Byte → Except Fault State
  | [] => .ok s
  | b :: bs =>
    match s.memWrite a b with
    | .error f => .error f
    | .ok t => t.memWriteRun (a + 1) bs

/-- `MemRead(pc, 2)` of the fetch: the byte at `pc` is the high one (R33, R49). -/
def State.fetchBytes (s : State) : List Byte := [s.cell s.pc.toNat, s.cell (s.pc.toNat + 1)]

/-- A 16-bit word stored high byte first at `a`, `a + 1`. -/
def State.storeWord (s : State) (a : Nat) (w : Word) : State :=
  (s.setCell a (w.extractLsb' 8 8)).setCell (a + 1) (w.extractLsb' 0 8)

/-! ## Registers (10_state.md R11, R12) -/

/-- `V[x]`. -/
def State.getV (s : State) (x : RegIx) : Byte := s.v[x]

/-- `V[x] <- b`. No register is hardwired (R11). -/
def State.setV (s : State) (x : RegIx) (b : Byte) : State := { s with v := s.v.set x b }

/-- `V[x] <- result`, then `V[F] <- flag`, in that order (45_ext_alu.md R119). -/
def State.setVThenFlag (s : State) (x : RegIx) (result flag : Byte) : State := (s.setV x result).setV vF flag

/-- `V[0] <- bs[0]`, `V[1] <- bs[1]`, ... for as many bytes as there are. -/
def State.setVRun (s : State) (bs : List Byte) : State :=
  { s with v := Vector.ofFn fun r : Fin 16 => bs.getD r.val s.v[r] }

/-- `I <- w`. -/
def State.setI (s : State) (w : Word) : State := { s with i := w }

/-- `dt <- b`. -/
def State.setDt (s : State) (b : Byte) : State := { s with dt := b }

/-- `st <- b`. -/
def State.setSt (s : State) (b : Byte) : State := { s with st := b }

/-! ## The free value (46_ext_keypad_timer_random.md R125) -/

/-- The random byte that the next draw gives. -/
def State.rnd (s : State) : Byte := Config.rnd s.draws

/-- The state after a draw: the next draw is another free value. -/
def State.drawn (s : State) : State := { s with draws := s.draws + 1 }

/-! ## The stack (10_state.md R15, R16) -/

/-- "CALL pushes then increments"; none when the stack is full. -/
def State.push (s : State) (w : Word) : Option State :=
  if h : s.sp.val < 16 then
    some { s with stack := s.stack.set s.sp.val w, sp := ⟨s.sp.val + 1, by omega⟩ }
  else none

/-- "RET decrements then pops": the popped value and the state without it; none when the stack is empty. The slot
keeps its value. -/
def State.pop (s : State) : Option (Word × State) :=
  if h : s.sp.val = 0 then none
  else some (s.stack[s.sp.val - 1]'(by omega), { s with sp := ⟨s.sp.val - 1, by omega⟩ })

/-! ## Pixels (10_state.md R20) -/

/-- `gfx[y][x]`; outside the buffer there is no pixel, and the answer is off. -/
def Gfx.get (g : Gfx) (y x : Nat) : Bool :=
  if h : y < 32 ∧ x < 64 then (g[y]'h.1)[x]'h.2 else false

/-- `gfx[y][x] <- gfx[y][x] xor 1`. -/
def Gfx.toggle (g : Gfx) (y x : Nat) : Gfx :=
  if h : y < 32 ∧ x < 64 then
    g.set y ((g[y]'h.1).set x (!(g[y]'h.1)[x]'h.2) h.2) h.1
  else g

/-- Every pixel off. -/
def Gfx.clear : Gfx := Vector.replicate 32 (Vector.replicate 64 false)

/-- The pixel buffer becomes `g`. -/
def State.setGfx (s : State) (g : Gfx) : State := { s with gfx := g }

/-! ## How an instruction ends (40_step_cycle.md R70, R72) -/

/-- `npc = (pc + 2) mod 65536` (R72). -/
def State.npc (s : State) : Word := s.pc + 2

/-- `pc <- target`, and the step returns `Ok`. -/
def State.jump (s : State) (target : Word) : State := { s with pc := target, outcome := .ok }

/-- `pc <- npc`, and the step returns `Ok`: the default advance (R72). -/
def State.advance (s : State) : State := s.jump s.npc

/-- `pc <- npc + 2` if the condition holds, else `pc <- npc` (44_ext_skip_jump.md R105). -/
def State.skipIf (s : State) (c : Bool) : State := s.jump (if c then s.npc + 2 else s.npc)

/-! ## Raising a fault (00_scope.md R9; 60_exceptions.md R171 to R176) -/

/-- The `pc` a fault leaves: the fetch-stage fault keeps it (R174), the decode-stage condition advances it (R171),
and an execute-stage fault follows FAULT_PC (R175). -/
def State.faultPc (s : State) : Fault → Word
  | .programCounterOutOfBounds => s.pc
  | .unrecognizedOpcode => s.npc
  | .stackOverflow | .stackUnderflow | .memoryOutOfBounds =>
    match s.cfg.faultPc with
    | .advance => s.npc
    | .hold => s.pc

/-- `raise f`: the step returns `f`; nothing but `pc` changes. There is no trap entry, so nothing is saved and no
handler runs (R179), and no trap return (R180). -/
def State.raise (s : State) (f : Fault) : State := { s with pc := s.faultPc f, outcome := .fault f }

end Sys2Proof.Machine
end

