-- ==== Sys2Proof/Machine/Flags.lean ====
section
/-! DEFINITION. What the flag register VF is written with (10_state.md R12): always 0 or 1. -/

namespace Sys2Proof.Machine

/-- A condition as the flag's value. -/
def flag (c : Bool) : Byte := if c then 1 else 0

/-- 8XY4: the carry out of the unsigned 8-bit addition (45_ext_alu.md R114). -/
def carryFlag (a b : Byte) : Byte := flag (a.toNat + b.toNat > 255)

/-- 8XY5, 8XY7: 1 when `minuend - subtrahend` does not borrow, equality included (R115, R117). -/
def noBorrowFlag (minuend subtrahend : Byte) : Byte := flag (minuend.toNat ≥ subtrahend.toNat)

/-- 8XY6: the bit shifted out to the right, `src[0]` (R116). -/
def shiftedOutRight (src : Byte) : Byte := flag (src.getLsbD 0)

/-- 8XYE: the bit shifted out to the left, `src[7]` (R118). -/
def shiftedOutLeft (src : Byte) : Byte := flag (src.getLsbD 7)

/-- 8XY1, 8XY2, 8XY3: `V[X] <- result`, and then `V[F] <- 0` when Q_LOGIC_VF_RESET (R111 to R113). -/
def State.setLogic (s : State) (x : RegIx) (result : Byte) : State :=
  if s.cfg.logicVfReset then s.setVThenFlag x result 0 else s.setV x result

end Sys2Proof.Machine
end

