-- ==== Sys2Proof/Machine/Operands.lean ====
section
/-! DEFINITION. The operand forms: how an instruction reads what its fields name (30_encoding.md R53). -/

namespace Sys2Proof.Machine

/-- `zext_16(NNN)` (R53). -/
def zextAddr (nnn : Addr) : Word := nnn.setWidth 16

/-- `V[X] mod 64`, the sprite's column (43_display.md R91). -/
def State.originX (s : State) (x : RegIx) : Nat := (s.getV x).toNat % 64

/-- `V[Y] mod 32`, the sprite's row (43_display.md R91). -/
def State.originY (s : State) (y : RegIx) : Nat := (s.getV y).toNat % 32

/-- `V[X][3:0]`, which selects a key or a glyph (46_ext_keypad_timer_random.md R126; 47_ext_index_memory.md R136). -/
def State.lowNibble (s : State) (x : RegIx) : Fin 16 := ((s.getV x).extractLsb' 0 4).toFin

/-- `key[k]` for the key `V[X][3:0]` selects (R126). -/
def State.keySelected (s : State) (x : RegIx) : Bool := s.key[s.lowNibble x]

/-- The least `k` with `key[k] = 1` (R129). -/
def State.leastKey (s : State) : Option (Fin 16) := (List.finRange 16).find? fun k => s.key[k]

/-- `0x050 + 5 * V[X][3:0]` (R136). -/
def State.glyphAddr (s : State) (x : RegIx) : Word := BitVec.ofNat 16 (0x050 + 5 * (s.lowNibble x).val)

/-- The register that 8XY6 and 8XYE shift: `V[Y]`, or `V[X]` in place (45_ext_alu.md R116). -/
def State.shiftSource (s : State) (x y : RegIx) : Byte :=
  match s.cfg.shiftSrc with
  | .vy => s.getV y
  | .vx => s.getV x

/-- V0..VX, the registers FX55 stores (47_ext_index_memory.md R138). -/
def State.regsUpTo (s : State) (x : RegIx) : List Byte := s.v.toList.take (x.val + 1)

/-- `I` after FX55 or FX65: `I + X + 1` when Q_MEM_I_INCREMENT, else unchanged (R138, R139). -/
def State.indexAfterRun (s : State) (x : RegIx) : Word :=
  if s.cfg.memIIncrement then BitVec.ofNat 16 (s.i.toNat + x.val + 1) else s.i

/-- The decimal digits of a byte, hundreds first (R137). -/
def decimalDigits (b : Byte) : List Byte :=
  [BitVec.ofNat 8 (b.toNat / 100), BitVec.ofNat 8 (b.toNat / 10 % 10), BitVec.ofNat 8 (b.toNat % 10)]

end Sys2Proof.Machine
end

