-- ==== Sys2Proof/Machine/Alu.lean ====
section
/-! DEFINITION. The register-register ALU operations (spec/45_ext_alu.md). The operands `a = V[X]` and `b = V[Y]` are
read before either write, and the flag is written after the result (R119). -/

namespace Sys2Proof.Machine

/-- 8XY0 LD VX, VY (R110). -/
def execLdVxVy (x y : RegIx) (s : State) : Host.Outcome State Fault Refusal :=
  .next (s.setV x (s.getV y)).advance

/-- 8XY1 OR VX, VY (R111). -/
def execOrVxVy (x y : RegIx) (s : State) : Host.Outcome State Fault Refusal :=
  .next (s.setLogic x (s.getV x ||| s.getV y)).advance

/-- 8XY2 AND VX, VY (R112). -/
def execAndVxVy (x y : RegIx) (s : State) : Host.Outcome State Fault Refusal :=
  .next (s.setLogic x (s.getV x &&& s.getV y)).advance

/-- 8XY3 XOR VX, VY (R113). -/
def execXorVxVy (x y : RegIx) (s : State) : Host.Outcome State Fault Refusal :=
  .next (s.setLogic x (s.getV x ^^^ s.getV y)).advance

/-- 8XY4 ADD VX, VY (R114). -/
def execAddVxVy (x y : RegIx) (s : State) : Host.Outcome State Fault Refusal :=
  let a := s.getV x
  let b := s.getV y
  .next (s.setVThenFlag x (BitVec.ofNat 8 (a.toNat + b.toNat)) (carryFlag a b)).advance

/-- 8XY5 SUB VX, VY (R115). -/
def execSubVxVy (x y : RegIx) (s : State) : Host.Outcome State Fault Refusal :=
  let a := s.getV x
  let b := s.getV y
  .next (s.setVThenFlag x (BitVec.ofNat 8 (a.toNat + 256 - b.toNat)) (noBorrowFlag a b)).advance

/-- 8XY6 SHR VX, VY (R116). -/
def execShrVxVy (x y : RegIx) (s : State) : Host.Outcome State Fault Refusal :=
  let src := s.shiftSource x y
  .next (s.setVThenFlag x (BitVec.ofNat 8 (src.toNat / 2)) (shiftedOutRight src)).advance

/-- 8XY7 SUBN VX, VY (R117). -/
def execSubnVxVy (x y : RegIx) (s : State) : Host.Outcome State Fault Refusal :=
  let a := s.getV x
  let b := s.getV y
  .next (s.setVThenFlag x (BitVec.ofNat 8 (b.toNat + 256 - a.toNat)) (noBorrowFlag b a)).advance

/-- 8XYE SHL VX, VY (R118). -/
def execShlVxVy (x y : RegIx) (s : State) : Host.Outcome State Fault Refusal :=
  let src := s.shiftSource x y
  .next (s.setVThenFlag x (BitVec.ofNat 8 (src.toNat * 2)) (shiftedOutLeft src)).advance

end Sys2Proof.Machine
end

