-- ==== Sys2Proof/Machine/ControlFlow.lean ====
section
/-! DEFINITION. RET, JP, CALL (spec/41_control_flow.md). -/

namespace Sys2Proof.Machine

/-- 00EE RET (R80). -/
def execRet (s : State) : Host.Outcome State Fault Refusal :=
  match s.pop with
  | none => .next (s.raise .stackUnderflow)
  | some (target, t) => .next (t.jump target)

/-- 1NNN JP NNN (R81). -/
def execJp (nnn : Addr) (s : State) : Host.Outcome State Fault Refusal :=
  .next (s.jump (zextAddr nnn))

/-- 2NNN CALL NNN (R82). -/
def execCall (nnn : Addr) (s : State) : Host.Outcome State Fault Refusal :=
  match s.push s.npc with
  | none => .next (s.raise .stackOverflow)
  | some t => .next (t.jump (zextAddr nnn))

end Sys2Proof.Machine
end

