-- ==== Sys2Proof/Machine/Display.lean ====
section
/-! DEFINITION. CLS and DRW (spec/43_display.md). -/

namespace Sys2Proof.Machine

/-- 00E0 CLS (R90). -/
def execCls (s : State) : Host.Outcome State Fault Refusal :=
  .next (s.setGfx Gfx.clear).advance

/-- What a draw has done so far: the pixel buffer, and whether an on pixel was turned off. -/
structure Drawing where
  gfx : Gfx
  hit : Bool
  deriving DecidableEq, Repr

/-- The innermost body of R91: bit `7 - col` of the row's byte, clipped at the right and bottom edges. -/
def drawPixel (x0 y0 row : Nat) (b : Byte) (d : Drawing) (col : Nat) : Drawing :=
  let y := y0 + row
  let x := x0 + col
  if y ≤ 31 ∧ x ≤ 63 ∧ b.getLsbD (7 - col) = true then
    { gfx := d.gfx.toggle y x, hit := d.hit || d.gfx.get y x }
  else d

/-- One sprite row: `for col in 0 .. 7`. -/
def drawRow (x0 y0 row : Nat) (b : Byte) (d : Drawing) : Drawing :=
  (List.range 8).foldl (drawPixel x0 y0 row b) d

/-- The sprite's rows from `row` on, one byte each. -/
def drawRows (x0 y0 : Nat) : Nat → List Byte → Drawing → Drawing
  | _, [], d => d
  | row, b :: bs, d => drawRows x0 y0 (row + 1) bs (drawRow x0 y0 row b d)

/-- DXYN DRW VX, VY, N (R91): the coordinates are read before VF is written. -/
def execDrw (x y : RegIx) (n : Count) (s : State) : Host.Outcome State Fault Refusal :=
  match s.memReadRun s.i.toNat n.val with
  | .error f => .next (s.raise f)
  | .ok rows =>
    let d := drawRows (s.originX x) (s.originY y) 0 rows { gfx := s.gfx, hit := false }
    .next ((s.setGfx d.gfx).setV vF (flag d.hit)).advance

end Sys2Proof.Machine
end

