-- ==== Sys2Proof/Machine/IndexMemory.lean ====
section
/-! DEFINITION. Index arithmetic, font address, BCD and block transfer (spec/47_ext_index_memory.md). -/

namespace Sys2Proof.Machine

/-- FX1E ADD I, VX (R135): all 16 bits are kept, and VF is not written. -/
def execAddIVx (x : RegIx) (s : State) : Host.Outcome State Fault Refusal :=
  .next (s.setI (BitVec.ofNat 16 (s.i.toNat + (s.getV x).toNat))).advance

/-- FX29 LD F, VX (R136). -/
def execLdFVx (x : RegIx) (s : State) : Host.Outcome State Fault Refusal :=
  .next (s.setI (s.glyphAddr x)).advance

/-- FX33 LD B, VX (R137). -/
def execLdBVx (x : RegIx) (s : State) : Host.Outcome State Fault Refusal :=
  match s.memWriteRun s.i.toNat (decimalDigits (s.getV x)) with
  | .error f => .next (s.raise f)
  | .ok t => .next t.advance

/-- FX55 LD [I], VX (R138). -/
def execLdMemVx (x : RegIx) (s : State) : Host.Outcome State Fault Refusal :=
  match s.memWriteRun s.i.toNat (s.regsUpTo x) with
  | .error f => .next (s.raise f)
  | .ok t => .next (t.setI (s.indexAfterRun x)).advance

/-- FX65 LD VX, [I] (R139). -/
def execLdVxMem (x : RegIx) (s : State) : Host.Outcome State Fault Refusal :=
  match s.memReadRun s.i.toNat (x.val + 1) with
  | .error f => .next (s.raise f)
  | .ok bs => .next ((s.setVRun bs).setI (s.indexAfterRun x)).advance

end Sys2Proof.Machine
end

