-- ==== Sys2Proof/Machine/KeypadTimerRandom.lean ====
section
/-! DEFINITION. The random, keypad and timer instructions (spec/46_ext_keypad_timer_random.md). -/

namespace Sys2Proof.Machine

/-- CXKK RND VX, KK (R125). -/
def execRndVxKk (x : RegIx) (kk : Byte) (s : State) : Host.Outcome State Fault Refusal :=
  .next (s.drawn.setV x (s.rnd &&& kk)).advance

/-- EX9E SKP VX (R126). -/
def execSkpVx (x : RegIx) (s : State) : Host.Outcome State Fault Refusal :=
  .next (s.skipIf (s.keySelected x))

/-- EXA1 SKNP VX (R127). -/
def execSknpVx (x : RegIx) (s : State) : Host.Outcome State Fault Refusal :=
  .next (s.skipIf (!s.keySelected x))

/-- FX07 LD VX, DT (R128). -/
def execLdVxDt (x : RegIx) (s : State) : Host.Outcome State Fault Refusal :=
  .next (s.setV x s.dt).advance

/-- FX0A LD VX, K (R129): with no key down `pc` is not advanced, and the step returns `Ok` all the same. -/
def execLdVxK (x : RegIx) (s : State) : Host.Outcome State Fault Refusal :=
  match s.leastKey with
  | some k => .next (s.setV x (BitVec.ofNat 8 k.val)).advance
  | none => .next (s.jump s.pc)

/-- FX15 LD DT, VX (R130). -/
def execLdDtVx (x : RegIx) (s : State) : Host.Outcome State Fault Refusal :=
  .next (s.setDt (s.getV x)).advance

/-- FX18 LD ST, VX (R131). -/
def execLdStVx (x : RegIx) (s : State) : Host.Outcome State Fault Refusal :=
  .next (s.setSt (s.getV x)).advance

end Sys2Proof.Machine
end

