-- ==== Sys2Proof/Machine/LoadAdd.lean ====
section
/-! DEFINITION. The immediate loads and add (spec/42_load_add_immediate.md). -/

namespace Sys2Proof.Machine

/-- 6XKK LD VX, KK (R85). -/
def execLdVxKk (x : RegIx) (kk : Byte) (s : State) : Host.Outcome State Fault Refusal :=
  .next (s.setV x kk).advance

/-- 7XKK ADD VX, KK (R86): modulo 256, and VF is not a flag here. -/
def execAddVxKk (x : RegIx) (kk : Byte) (s : State) : Host.Outcome State Fault Refusal :=
  .next (s.setV x (BitVec.ofNat 8 ((s.getV x).toNat + kk.toNat))).advance

/-- ANNN LD I, NNN (R87). -/
def execLdINnn (nnn : Addr) (s : State) : Host.Outcome State Fault Refusal :=
  .next (s.setI (zextAddr nnn)).advance

end Sys2Proof.Machine
end

