-- ==== Sys2Proof/Machine/SkipJump.lean ====
section
/-! DEFINITION. The skips on registers and the indexed jump (spec/44_ext_skip_jump.md). -/

namespace Sys2Proof.Machine

/-- 3XKK SE VX, KK (R100). -/
def execSeVxKk (x : RegIx) (kk : Byte) (s : State) : Host.Outcome State Fault Refusal :=
  .next (s.skipIf (s.getV x == kk))

/-- 4XKK SNE VX, KK (R101). -/
def execSneVxKk (x : RegIx) (kk : Byte) (s : State) : Host.Outcome State Fault Refusal :=
  .next (s.skipIf (s.getV x != kk))

/-- 5XY0 SE VX, VY (R102). -/
def execSeVxVy (x y : RegIx) (s : State) : Host.Outcome State Fault Refusal :=
  .next (s.skipIf (s.getV x == s.getV y))

/-- 9XY0 SNE VX, VY (R103). -/
def execSneVxVy (x y : RegIx) (s : State) : Host.Outcome State Fault Refusal :=
  .next (s.skipIf (s.getV x != s.getV y))

/-- BNNN JP V0, NNN (R104): always V0, not reduced to 12 bits. -/
def execJpV0Nnn (nnn : Addr) (s : State) : Host.Outcome State Fault Refusal :=
  .next (s.jump (BitVec.ofNat 16 (nnn.toNat + (s.getV 0).toNat)))

end Sys2Proof.Machine
end

