-- ==== Sys2Proof/Machine/Step.lean ====
section
/-! DEFINITION. The `step` command (40_step_cycle.md R70), and placing a word where it fetches. -/

namespace Sys2Proof.Machine

/-- One instruction cycle (R70): the bound on `pc` (R71), then the fetch, then decoding in the machine's profile (R73),
then the instruction's meaning. An opcode of no row is reported and passed over (R74). -/
def step (s : State) : Host.Outcome State Fault Refusal :=
  if s.pc.toNat ≥ 4095 then .next (s.raise .programCounterOutOfBounds)
  else
    match decodeBytes s.cfg.profile s.fetchBytes with
    | .ok (i, _) => exec i s
    | .error _ => .next (s.raise .unrecognizedOpcode)

/-- `s` with the table word `w` stored where `step` fetches next: at `pc`, or at 0x200 with `pc` there where `pc` is
one that nothing can be fetched from. It stands for the host's `load` (50_host_interface.md R152; log entry 24). -/
def State.withFetchWord (s : State) (nbits w : Nat) : State :=
  let t : State := if s.pc.toNat ≥ 4095 then { s with pc := 0x200 } else s
  t.storeWord t.pc.toNat (BitVec.ofNat 16 (w % 2 ^ nbits))

end Sys2Proof.Machine
end

