-- ==== Sys2Proof/Machine/HostPort.lean ====
section
/-! DEFINITION. The core's whole interface: the eight commands, each one atomic transition (spec/50_host_interface.md;
60_exceptions.md R183; 70_reset_and_hazards.md R200). -/

namespace Sys2Proof.Machine

/-- The commands of R151. `index` is a plain number, so that one above 15 can be written and refused (R153). -/
inductive Command where
  | reset
  | load (rom : List Byte)
  | step
  | tickTimers
  | setKey (index : Nat) (pressed : Bool)
  | getKeys
  | getPixelBuffer
  | getSoundTimer
  deriving DecidableEq, Repr

/-- What `load` returns (R157). -/
inductive LoadOutcome where
  | ok
  | romTooLarge
  deriving DecidableEq, Repr

/-- What a command returns (R151). -/
inductive Response where
  | nothing
  | loaded (o : LoadOutcome)
  | stepped (o : StepOutcome)
  | keys (k : Vector Bool 16)
  | pixels (p : Vector Bool 2048)
  | soundTimer (st : Byte)
  deriving DecidableEq, Repr

/-- The numeric code of a step's outcome (60_exceptions.md R170). -/
def StepOutcome.code : StepOutcome → Nat
  | .ok => 0
  | .fault .unrecognizedOpcode => 1
  | .fault .stackOverflow => 2
  | .fault .stackUnderflow => 3
  | .fault .programCounterOutOfBounds => 4
  | .fault .memoryOutOfBounds => 6

/-- The numeric code of a load's outcome (60_exceptions.md R170). -/
def LoadOutcome.code : LoadOutcome → Nat
  | .ok => 0
  | .romTooLarge => 5

/-- `ROM_MAX` (00_scope.md R4). -/
def romMax : Nat := 4096 - 0x200

/-- `load(romBytes)` (R152): the length is checked before anything is written. -/
def State.load (s : State) (rom : List Byte) : State × LoadOutcome :=
  if rom.length > romMax then (s, .romTooLarge) else (s.setCells 0x200 rom, .ok)

/-- One timer's tick: down by one, floored at 0 (R183). -/
def tick (t : Byte) : Byte := if t.toNat > 0 then t - 1 else t

/-- `tickTimers()` (R183). -/
def State.tickTimers (s : State) : State := { s with dt := tick s.dt, st := tick s.st }

/-- `SetKey(index, pressed)` for an index the interface can express (R153). -/
def State.setKey (s : State) (k : Fin 16) (pressed : Bool) : State := { s with key := s.key.set k pressed }

/-- `reset()` on a running machine (R200). The configuration and the count of draws are not hardware state, so they
stay: the bytes drawn after a reset are free values like any others (log entry 10). -/
def State.resetCommand (s : State) : State := State.resetWith s.cfg s.draws

/-- `GetPixelBuffer()` (R155): pixel (x, y) at position `y * 64 + x`. -/
def State.pixelBuffer (s : State) : Vector Bool 2048 := Vector.ofFn fun p : Fin 2048 => s.gfx.get (p.val / 64) (p.val % 64)

/-- A machine as the host meets it: before its first reset it holds no value (10_state.md R27), only what kind of
machine it is. -/
inductive Device where
  | powerOn (cfg : Config)
  | running (s : State)
  deriving DecidableEq, Repr

/-- One command, from the state the last command left (R150). Before the first reset every command but `reset` is
refused (R27). -/
def issue (c : Command) : Device → Host.Outcome (Device × Response) Fault Refusal
  | .powerOn cfg =>
    match c with
    | .reset => .next (.running (State.resetWith cfg 0), .nothing)
    | .load _ | .step | .tickTimers | .setKey _ _ | .getKeys | .getPixelBuffer | .getSoundTimer =>
      .refused .commandBeforeReset
  | .running s =>
    match c with
    | .reset => .next (.running s.resetCommand, .nothing)
    | .load rom => .next (.running (s.load rom).1, .loaded (s.load rom).2)
    | .step =>
      match Sys2Proof.Machine.step s with
      | .next t => .next (.running t, .stepped t.outcome)
      | .fault f => .fault f
      | .refused r => .refused r
    | .tickTimers => .next (.running s.tickTimers, .nothing)
    | .setKey k pressed =>
      if h : k < 16 then .next (.running (s.setKey ⟨k, h⟩ pressed), .nothing)
      else .refused (.keyIndexOutOfRange k)
    | .getKeys => .next (.running s, .keys s.key)
    | .getPixelBuffer => .next (.running s, .pixels s.pixelBuffer)
    | .getSoundTimer => .next (.running s, .soundTimer s.st)

/-- A run: the commands the host chose, in its order, and what each returned (R150; 92_eei_decisions.md D16). A claim
about every run is about every list of commands. -/
def runSchedule : List Command → Device → Host.Outcome (Device × List Response) Fault Refusal
  | [], d => .next (d, [])
  | c :: cs, d =>
    match issue c d with
    | .next (d', r) =>
      match runSchedule cs d' with
      | .next (d'', rs) => .next (d'', r :: rs)
      | .fault f => .fault f
      | .refused r => .refused r
    | .fault f => .fault f
    | .refused r => .refused r

end Sys2Proof.Machine
end

