-- ==== Sys2Proof/Safety.lean ====
section
/-! DEFINITION. The terms claims are stated in: what an instruction may change, what every reachable state keeps, and
what a run without a fault is. -/

namespace Sys2Proof.Machine

/-- What an instruction may change beside `pc` and the outcome (10_state.md R26). -/
structure Touches where
  /-- the general registers it may write -/
  regs : List RegIx := []
  /-- whether it may write `I` -/
  index : Bool := false
  /-- whether it may write the stack and its pointer -/
  stack : Bool := false
  /-- whether it may write the delay timer -/
  delay : Bool := false
  /-- whether it may write the sound timer -/
  sound : Bool := false
  /-- whether it may write pixels -/
  pixels : Bool := false
  /-- whether it may draw a random byte -/
  draws : Bool := false
  /-- the first address of the cells it may write, and how many they are -/
  cells : Nat × Nat := (0, 0)

/-- `t` has everything as `s` has it but `pc`, the outcome and what `c` lists. Keys and configuration are never
listed: no instruction writes them (10_state.md R19). Memory is compared cell by cell. -/
structure Unchanged (c : Touches) (s t : State) : Prop where
  regs : ∀ r : RegIx, r ∉ c.regs → t.getV r = s.getV r
  index : c.index = false → t.i = s.i
  stack : c.stack = false → t.stack = s.stack ∧ t.sp = s.sp
  delay : c.delay = false → t.dt = s.dt
  sound : c.sound = false → t.st = s.st
  pixels : c.pixels = false → t.gfx = s.gfx
  draws : c.draws = false → t.draws = s.draws
  cells : ∀ a, ¬(c.cells.1 ≤ a ∧ a < c.cells.1 + c.cells.2) → t.cell a = s.cell a
  key : t.key = s.key
  cfg : t.cfg = s.cfg

/-- What each instruction may change, field by field (10_state.md R12, R15 to R20, R26 and the instruction's own
rule). The two registers an ALU operation lists are one when X = F. -/
def touches (i : Instr) (s : State) : Touches :=
  match i with
  | .cls => { pixels := true }
  | .drw _ _ _ => { regs := [vF], pixels := true }
  | .ret | .call _ => { stack := true }
  | .jp _ | .jpV0Nnn _ | .seVxKk _ _ | .sneVxKk _ _ | .seVxVy _ _ | .sneVxVy _ _ | .skpVx _ | .sknpVx _ => {}
  | .ldVxKk x _ | .addVxKk x _ | .ldVxVy x _ | .ldVxDt x | .ldVxK x => { regs := [x] }
  | .orVxVy x _ | .andVxVy x _ | .xorVxVy x _ => { regs := if s.cfg.logicVfReset then [x, vF] else [x] }
  | .addVxVy x _ | .subVxVy x _ | .shrVxVy x _ | .subnVxVy x _ | .shlVxVy x _ => { regs := [x, vF] }
  | .rndVxKk x _ => { regs := [x], draws := true }
  | .ldDtVx _ => { delay := true }
  | .ldStVx _ => { sound := true }
  | .ldINnn _ | .addIVx _ | .ldFVx _ => { index := true }
  | .ldBVx _ => { cells := (s.i.toNat, 3) }
  | .ldMemVx x => { index := s.cfg.memIIncrement, cells := (s.i.toNat, x.val + 1) }
  | .ldVxMem x => { regs := (List.finRange 16).filter (· ≤ x), index := s.cfg.memIIncrement }

/-- Whether the instruction's data run leaves memory (20_memory.md R38). -/
def RunLeavesMemory (i : Instr) (s : State) : Prop :=
  match i with
  | .drw _ _ n => 0 < n.val ∧ s.i.toNat + n.val - 1 > 0xFFF
  | .ldBVx _ => s.i.toNat + 2 > 0xFFF
  | .ldMemVx x | .ldVxMem x => s.i.toNat + x.val > 0xFFF
  | _ => False

/-- What an execute-stage fault leaves (60_exceptions.md R175): `pc` by FAULT_PC, and nothing else changed. -/
structure ExecuteFault (f : Fault) (s t : State) : Prop where
  outcome : t.outcome = .fault f
  advance : s.cfg.faultPc = .advance → t.pc = s.pc + 2
  hold : s.cfg.faultPc = .hold → t.pc = s.pc
  rest : Unchanged {} s t

/-- The `pc` that an instruction which does not fault may leave (40_step_cycle.md R72). RET, JP, CALL and BNNN are left
out: their target is given by their own rules, and any value meets this. A skip leaves one of two values. FX0A advances
when some key is down, and stays when none is (46_ext_keypad_timer_random.md R129). -/
def NextPc (i : Instr) (s t : State) : Prop :=
  match i with
  | .ret | .jp _ | .call _ | .jpV0Nnn _ => True
  | .seVxKk _ _ | .sneVxKk _ _ | .seVxVy _ _ | .sneVxVy _ _ | .skpVx _ | .sknpVx _ =>
    t.pc = s.pc + 2 ∨ t.pc = s.pc + 4
  | .ldVxK _ =>
    ((∃ k : Fin 16, s.key[k] = true) ∧ t.pc = s.pc + 2) ∨ ((∀ k : Fin 16, s.key[k] = false) ∧ t.pc = s.pc)
  | _ => t.pc = s.pc + 2

/-- What every command keeps: a `pc` that never wraps (10_state.md R14, R25) and return addresses that some CALL pushed
(R25: a value in 2..4096); and, the model's own clause, the canonical form of its memory (log entry 25, DESIGN CHOICE),
of which R25 says nothing. -/
structure Inv (s : State) : Prop where
  memory : s.mem.wf s.cfg.font = true
  pc : s.pc.toNat ≤ 0x10FE
  stack : ∀ k : Fin 16, k.val < s.sp.val → 2 ≤ s.stack[k].toNat ∧ s.stack[k].toNat ≤ 4096

/-- The configuration of a machine, whether or not it was reset. -/
def Device.cfg : Device → Config
  | .powerOn cfg => cfg
  | .running s => s.cfg

/-- `Inv` of a machine: before the first reset there is no state to speak of (R27). -/
def Device.Inv : Device → Prop
  | .powerOn _ => True
  | .running s => Machine.Inv s

/-- A run is safe when no step of it returned a fault (60_exceptions.md R175, R189). -/
def NoFault (rs : List Response) : Prop := ∀ f, Response.stepped (.fault f) ∉ rs

/-- Whether the sprite that DXYN reads at `I` has an on pixel at row `row`, column `col` of the buffer (43_display.md
R91, R92): row `row - originY` of the sprite is the byte at `I` plus that, and its bit `7 - (col - originX)` is the
pixel. -/
def State.spriteOn (s : State) (x y : RegIx) (n : Count) (row col : Nat) : Bool :=
  decide (s.originY y ≤ row ∧ row < s.originY y + n.val ∧ s.originX x ≤ col ∧ col < s.originX x + 8) &&
    (s.cell (s.i.toNat + (row - s.originY y))).getLsbD (7 - (col - s.originX x))

/-- The same machine with another FAULT_PC. -/
def State.withFaultPc (s : State) (q : FaultPc) : State := { s with cfg := { s.cfg with faultPc := q } }

/-- The same machine with another FAULT_PC, whether or not it was reset. -/
def Device.withFaultPc (d : Device) (q : FaultPc) : Device :=
  match d with
  | .powerOn cfg => .powerOn { cfg with faultPc := q }
  | .running s => .running (s.withFaultPc q)

/-- The content of cell `a` once `bs` has been stored from `base` up over the memory of `s`. -/
def State.cellWith (s : State) (base : Nat) (bs : List Byte) (a : Nat) : Byte :=
  if base ≤ a ∧ a < base + bs.length then bs.getD (a - base) 0 else s.cell a

/-- The step from `t` fetches what `bs`, stored from `base` up over the memory of `s`, left in the two cells at `pc`: it
runs what they decode to, or reports them as unrecognized (20_memory.md R46). -/
def FetchesStored (s : State) (base : Nat) (bs : List Byte) (t : State) : Prop :=
  t.pc.toNat ≤ 4094 → ∀ op : Word,
    op.toNat = (s.cellWith base bs t.pc.toNat).toNat * 256 + (s.cellWith base bs (t.pc.toNat + 1)).toNat →
    (∀ i, decode s.cfg.profile op = .ok i → step t = exec i t) ∧
    (∀ r, decode s.cfg.profile op = .error r → ∃ u, step t = .next u ∧ u.outcome = .fault .unrecognizedOpcode)

/-- Instructions one after the other, each from the state the last one left. -/
def execAll : List Instr → State → Host.Outcome State Fault Refusal
  | [], s => .next s
  | i :: is, s =>
    match exec i s with
    | .next t => execAll is t
    | .fault f => .fault f
    | .refused r => .refused r

end Sys2Proof.Machine
end

