-- ==== Sys2Proof/Certificates/Slice0/Obligations.lean ====
section
/-! DEFINITION. The statements for the provers. In all of them the outcome a step returns is read off `State.outcome`,
which is how the model reports it (log entry 1), and a statement over all states is over all configurations (log entry
3). A clause that rests on one of the spec's own decisions D<n> (92_eei_decisions.md) names it. -/

open Sys2Proof Sys2Proof.Machine

/-! ## Reset, and what every command keeps -/

/-- R24, R200: the value of every item of state after the `reset` command, on any machine, before its first reset or
after it. -/
def Obligations.ResetWritesEveryItem : Prop :=
  ∀ d : Device, ∃ t, issue .reset d = .next (.running t, .nothing) ∧ t.cfg = d.cfg ∧
    (∀ a, a ≤ 0x04F → t.cell a = 0) ∧
    (∀ k : Fin 80, t.cell (0x050 + k.val) = d.cfg.font[k]) ∧
    (∀ a, 0x0A0 ≤ a → a ≤ 0xFFF → t.cell a = 0) ∧
    (∀ r : RegIx, t.getV r = 0) ∧ t.i = 0 ∧ t.pc = 0x200 ∧
    (∀ k : Fin 16, t.stack[k] = 0) ∧ t.sp = 0 ∧ t.dt = 0 ∧ t.st = 0 ∧
    (∀ k : Fin 16, t.key[k] = false) ∧
    ∀ y x, y < 32 → x < 64 → Gfx.get t.gfx y x = false

/-- R201: the state after `reset` does not depend on the state before it (the count of random draws, no hardware state,
aside: log entry 10), resetting twice is resetting once, and `reset` then `load` gives the same state from any two
machines of one configuration. -/
def Obligations.ResetIsTotalAndIdempotent : Prop :=
  (∀ s : State, s.resetCommand.resetCommand = s.resetCommand) ∧
  ∀ (d e : Device) (rom : List Byte), d.cfg = e.cfg →
    ∃ t u rs, runSchedule [.reset, .load rom] d = .next (.running t, rs) ∧
      runSchedule [.reset, .load rom] e = .next (.running u, rs) ∧
      u = { t with draws := u.draws }

/-- S2 of 95_test_vectors.md: after reset, bytes at offset 0x050 through 0x09F equal the fontset, regardless of ROM
contents. -/
def Obligations.FontsetSurvivesEveryLoad : Prop :=
  ∀ (d : Device) (rom : List Byte), ∃ t o, runSchedule [.reset, .load rom] d = .next (.running t, [.nothing, .loaded o]) ∧
    ∀ k : Fin 80, t.cell (0x050 + k.val) = d.cfg.font[k]

/-- `State.reset` is what the first reset of a machine of the default configuration leaves (the configuration is the
model's choice, log entries 3 to 9), and `Inv` holds of it, and after a reset of any configuration and count of draws.
`Inv` bounds `pc` and the return addresses (R14, R25); its clause on the canonical form of memory is the model's own
choice (log entry 25). -/
def Obligations.ResetEstablishesInvariant : Prop :=
  issue .reset (.powerOn defaultConfig) = .next (.running State.reset, .nothing) ∧ Inv State.reset ∧
  ∀ (cfg : Config) (n : Nat), Inv (State.resetWith cfg n)

/-- Every step keeps `Inv`: no `pc` that could wrap and return addresses in 2..4096 (R14, R25), and memory in its
canonical form, a clause that is the model's own choice (log entry 25). -/
def Obligations.StepKeepsInvariant : Prop :=
  ∀ s t : State, Inv s → step s = .next t → Inv t

/-- Every schedule of commands keeps `Inv`: the bounds of R14 and R25 on `pc` and the return addresses, and the
canonical form of memory, a clause that is the model's own choice (log entry 25). -/
def Obligations.EveryScheduleKeepsInvariant : Prop :=
  ∀ (cs : List Command) (d e : Device) (rs : List Response),
    Device.Inv d → runSchedule cs d = .next (e, rs) → Device.Inv e

/-! ## Encoding -/

/-- Decoding an encoded instruction of the profile gives it back, from its word and from its bytes with any bytes
after them. -/
def Obligations.DecodeOfEncode : Prop :=
  ∀ (p : Profile) (i : Instr) (rest : List Byte), i.wellFormed p = true →
    decode p (encode i) = .ok i ∧ decodeBytes p (encodeBytes i ++ rest) = .ok (i, rest)

/-- Each opcode has one meaning: what the decoder accepts is the encoding of the instruction it gives, which the
profile has. -/
def Obligations.EncodeOfDecode : Prop :=
  ∀ (p : Profile) (op : Word) (i : Instr), decode p op = .ok i → encode i = op ∧ i.wellFormed p = true

/-- R54, R55, R62: an opcode decodes iff `(op & mask) = match` for some row of the profile's table, and no two rows
overlap. -/
def Obligations.DecoderFollowsOpcodeTable : Prop :=
  (∀ (p : Profile) (op : Word), (∃ i, decode p op = .ok i) ↔ ∃ r ∈ profileRows p, op &&& r.mask = r.value) ∧
  ∀ (op : Word), ∀ r ∈ opcodeRows, ∀ r' ∈ opcodeRows,
    op &&& r.mask = r.value → op &&& r'.mask = r'.value → r = r'

/-- R56: the unrecognized values of each profile, family by family. -/
def Obligations.UnrecognizedValuesPerFamily : Prop :=
  ∀ op : Word,
    (decode .source8 op = .error .unrecognizedOpcode ↔
      (family op = 0x0 ∧ op ≠ 0x00E0 ∧ op ≠ 0x00EE) ∨
      family op ∈ [0x3#4, 0x4#4, 0x5#4, 0x8#4, 0x9#4, 0xB#4, 0xC#4, 0xE#4, 0xF#4]) ∧
    (decode .full op = .error .unrecognizedOpcode ↔
      (family op = 0x0 ∧ op ≠ 0x00E0 ∧ op ≠ 0x00EE) ∨
      (family op = 0x5 ∧ fieldN op ≠ 0) ∨
      (family op = 0x8 ∧ fieldN op ∈ [0x8, 0x9, 0xA, 0xB, 0xC, 0xD, 0xF]) ∨
      (family op = 0x9 ∧ fieldN op ≠ 0) ∨
      (family op = 0xE ∧ fieldKK op ∉ [0x9E#8, 0xA1#8]) ∨
      (family op = 0xF ∧ fieldKK op ∉ [0x07#8, 0x0A#8, 0x15#8, 0x18#8, 0x1E#8, 0x29#8, 0x33#8, 0x55#8, 0x65#8]))

/-- Words written out from R52, R54 and R55, one a family, decode to the instruction they stand for. -/
def Obligations.SampleWordsDecode : Prop :=
  ∀ p : Profile, decode p 0x00EE = .ok .ret ∧ decode p 0x1234 = .ok (.jp 0x234) ∧
    decode p 0x6A2B = .ok (.ldVxKk 0xA 0x2B) ∧ decode p 0xD125 = .ok (.drw 1 2 5) ∧
    (p = .full → decode p 0x4C07 = .ok (.sneVxKk 0xC 0x07) ∧ decode p 0x83E7 = .ok (.subnVxVy 3 0xE) ∧
      decode p 0xE5A1 = .ok (.sknpVx 5) ∧ decode p 0xF655 = .ok (.ldMemVx 6))

/-! ## The step -/

/-- R70, R73: when the bytes at `pc` decode to an instruction of the machine's profile, a step is the execution of that
instruction in that state. Nothing stands around it. -/
def Obligations.StepRunsDecodedInstruction : Prop :=
  ∀ (s : State) (i : Instr) (rest : List Byte), s.pc.toNat ≤ 4094 →
    decodeBytes s.cfg.profile [s.cell s.pc.toNat, s.cell (s.pc.toNat + 1)] = .ok (i, rest) →
    step s = exec i s

/-- R71: at `pc ≥ 4095` the step ends at once with ProgramCounterOutOfBounds and no state changes; below, the opcode is
`(mem[pc] << 8) | mem[pc+1]`, at an odd `pc` as at an even one, and it alone decides what the step does: it runs what
the opcode decodes to, or reports it as unrecognized. -/
def Obligations.FetchBoundAndByteOrder : Prop :=
  ∀ s : State,
    (s.pc.toNat ≥ 4095 → step s = .next { s with outcome := .fault .programCounterOutOfBounds }) ∧
    (s.pc.toNat ≤ 4094 → ∀ op : Word,
      op.toNat = (s.cell s.pc.toNat).toNat * 256 + (s.cell (s.pc.toNat + 1)).toNat →
      (∀ i, decode s.cfg.profile op = .ok i → step s = exec i s) ∧
      (∀ r, decode s.cfg.profile op = .error r → ∃ t, step s = .next t ∧ t.outcome = .fault .unrecognizedOpcode))

/-- R74: an opcode that decodes to nothing is reported, `pc` advances by 2 and nothing else changes. -/
def Obligations.UnrecognizedOpcodeIsPassedOver : Prop :=
  ∀ (s : State) (op : Word), s.pc.toNat ≤ 4094 →
    op.toNat = (s.cell s.pc.toNat).toNat * 256 + (s.cell (s.pc.toNat + 1)).toNat →
    decode s.cfg.profile op = .error .unrecognizedOpcode →
    ∃ t, step s = .next t ∧ t.pc = s.pc + 2 ∧ t.outcome = .fault .unrecognizedOpcode ∧ Unchanged {} s t

/-- R76: there is no halt. Every step, from any state, is answered by a next state. -/
def Obligations.StepAlwaysContinues : Prop :=
  ∀ s : State, ∃ t, step s = .next t

/-- R177: which outcome a step returns, by the first stage that finds a fault: the bound on `pc`, then the decoding,
then the one check of the decoded instruction. The last clause rests on D7 and D11 (log entry 13). -/
def Obligations.OutcomeIsTheFirstFaultFound : Prop :=
  ∀ s t : State, step s = .next t →
    (t.outcome = .fault .programCounterOutOfBounds ↔ s.pc.toNat ≥ 4095) ∧
    (t.outcome = .fault .unrecognizedOpcode ↔
      s.pc.toNat ≤ 4094 ∧ ∃ r, decodeBytes s.cfg.profile s.fetchBytes = .error r) ∧
    (t.outcome = .fault .stackOverflow ↔
      s.pc.toNat ≤ 4094 ∧ ∃ nnn, decodeBytes s.cfg.profile s.fetchBytes = .ok (.call nnn, []) ∧ s.sp.val = 16) ∧
    (t.outcome = .fault .stackUnderflow ↔
      s.pc.toNat ≤ 4094 ∧ decodeBytes s.cfg.profile s.fetchBytes = .ok (.ret, []) ∧ s.sp.val = 0) ∧
    (t.outcome = .fault .memoryOutOfBounds ↔
      s.pc.toNat ≤ 4094 ∧ ∃ i, decodeBytes s.cfg.profile s.fetchBytes = .ok (i, []) ∧ RunLeavesMemory i s)

/-- R181: a step that returns a fault has written nothing but `pc`, and `pc` as the fault's own rule says (R174, R171,
R175; FAULT_PC is D5, and both its values are covered). -/
def Obligations.FaultsArePrecise : Prop :=
  ∀ (s t : State) (f : Fault), step s = .next t → t.outcome = .fault f →
    Unchanged {} s t ∧
    (f = .programCounterOutOfBounds → t.pc = s.pc) ∧
    (f = .unrecognizedOpcode → t.pc = s.pc + 2) ∧
    (f ≠ .programCounterOutOfBounds → f ≠ .unrecognizedOpcode →
      (s.cfg.faultPc = .advance → t.pc = s.pc + 2) ∧ (s.cfg.faultPc = .hold → t.pc = s.pc))

/-- R26: every instruction leaves alone all that `touches` does not list for it, memory byte by byte. In particular no
instruction writes a key or the configuration. -/
def Obligations.EveryInstructionKeepsItsFrame : Prop :=
  ∀ (i : Instr) (s t : State), exec i s = .next t → Unchanged (touches i s) s t

/-- R72: an instruction that does not fault and is none of RET, JP, CALL, BNNN leaves `pc + 2`; a skip leaves that or
`pc + 4`, and FX0A leaves it when some key is down, and the old `pc` when none is (R129, D24). -/
def Obligations.DefaultAdvanceIsByTwo : Prop :=
  ∀ (i : Instr) (s t : State), exec i s = .next t → t.outcome = .ok → NextPc i s t

/-- R76: the two kinds of fixed point. From a `pc` out of bounds, and from a self-jump, any number of steps changes
nothing but the reported outcome. -/
def Obligations.FixedPointsOfStep : Prop :=
  (∀ (s : State) (n : Nat), s.pc.toNat ≥ 4095 →
    Sys2Proof.core.run (n + 1) s = .next { s with outcome := .fault .programCounterOutOfBounds }) ∧
  ∀ (s : State) (n : Nat) (nnn : Addr), s.pc.toNat = nnn.toNat → s.pc.toNat ≤ 4094 →
    decodeBytes s.cfg.profile s.fetchBytes = .ok (.jp nnn, []) →
    Sys2Proof.core.run (n + 1) s = .next { s with outcome := .ok }

/-- R203, R204: a program of the machine's profile that the host loads after a reset runs from its first instruction,
at 0x200. -/
def Obligations.LoadedProgramRunsFrom0x200 : Prop :=
  ∀ (d : Device) (i : Instr) (rest : List Byte), i.wellFormed d.cfg.profile = true → rest.length ≤ 3582 →
    ∃ s, runSchedule [.reset, .load (encodeBytes i ++ rest)] d = .next (.running s, [.nothing, .loaded .ok]) ∧
      s.pc = 0x200 ∧ step s = exec i s

/-- R46, R206: a store is seen by the very next fetch. After FX55 of any X, after FX33, and after the host's `load`,
wherever the bytes stored lie (over the next instruction, over a half of it, or elsewhere), the next step runs what the
new content of the two cells at its `pc` decodes to. -/
def Obligations.StoreIsSeenByTheNextFetch : Prop :=
  ∀ s : State,
    (∀ x : RegIx, s.i.toNat + x.val ≤ 0xFFF → ∃ t, exec (.ldMemVx x) s = .next t ∧ t.pc = s.pc + 2 ∧
      FetchesStored s s.i.toNat (((List.finRange 16).filter (· ≤ x)).map s.getV) t) ∧
    (∀ x : RegIx, s.i.toNat + 2 ≤ 0xFFF → ∃ t, exec (.ldBVx x) s = .next t ∧ t.pc = s.pc + 2 ∧
      FetchesStored s s.i.toNat [BitVec.ofNat 8 ((s.getV x).toNat / 100),
        BitVec.ofNat 8 ((s.getV x).toNat / 10 % 10), BitVec.ofNat 8 ((s.getV x).toNat % 10)] t) ∧
    (∀ rom : List Byte, rom.length ≤ 3584 → ∃ t, issue (.load rom) (.running s) = .next (.running t, .loaded .ok) ∧
      t.pc = s.pc ∧ FetchesStored s 0x200 rom t)

/-- R175: the choice of FAULT_PC is unobservable to a run in which no step returned a fault: given the same random
bytes, the other choice gives the same answers and the same state. That two machines with the same count of draws draw
the same bytes is the model's choice (log entry 10). -/
def Obligations.FaultPcUnobservableWithoutFaults : Prop :=
  ∀ (cs : List Command) (d e : Device) (rs : List Response) (q : FaultPc),
    runSchedule cs d = .next (e, rs) → NoFault rs →
    runSchedule cs (d.withFaultPc q) = .next (e.withFaultPc q, rs)

/-- R17 to R19: in SOURCE8 no instruction reads or writes the keypad or a timer, so a step does the same whatever they
hold. -/
def Obligations.Source8IgnoresKeysAndTimers : Prop :=
  ∀ (s t : State) (k : Vector Bool 16) (d u : Byte), s.cfg.profile = .source8 → step s = .next t →
    step { s with key := k, dt := d, st := u } = .next { t with key := k, dt := d, st := u }

/-- R17, R184: in SOURCE8 both timers stay 0 for ever, under every schedule of commands; and R32: no step changes
memory. -/
def Obligations.Source8TimersAndMemoryStay : Prop :=
  (∀ (cs : List Command) (s : State) (e : Device) (rs : List Response), s.cfg.profile = .source8 →
    s.dt = 0 → s.st = 0 → runSchedule cs (.running s) = .next (e, rs) →
    ∃ t, e = .running t ∧ t.dt = 0 ∧ t.st = 0) ∧
  ∀ s t : State, s.cfg.profile = .source8 → step s = .next t → ∀ a, t.cell a = s.cell a

/-! ## Control flow -/

/-- R80: RET. With `k + 1` return addresses on the stack it goes to the top one, `stack[k]`, which keeps its value; with
none it is StackUnderflow. -/
def Obligations.RetPopsOrUnderflows : Prop :=
  ∀ s : State,
    (∀ k : Fin 16, s.sp.val = k.val + 1 → ∃ t, exec .ret s = .next t ∧ t.sp.val = k.val ∧ t.pc = s.stack[k] ∧
      t.stack = s.stack ∧ t.outcome = .ok ∧ Unchanged { stack := true } s t) ∧
    (s.sp.val = 0 → ∃ t, exec .ret s = .next t ∧ ExecuteFault .stackUnderflow s t)

/-- R81: JP sets `pc` to exactly NNN, and changes no state at all when it is there already. -/
def Obligations.JpSetsPcToTarget : Prop :=
  ∀ (s : State) (nnn : Addr), ∃ t, exec (.jp nnn) s = .next t ∧ t.pc.toNat = nnn.toNat ∧ t.outcome = .ok ∧
    Unchanged {} s t ∧ (s.pc.toNat = nnn.toNat → t = { s with outcome := .ok })

/-- R82: CALL pushes the address of the instruction after it and goes to NNN; with 16 addresses on the stack it is
StackOverflow. -/
def Obligations.CallPushesOrOverflows : Prop :=
  ∀ (s : State) (nnn : Addr),
    (∀ k : Fin 16, s.sp.val = k.val → ∃ t, exec (.call nnn) s = .next t ∧ t.stack[k] = s.pc + 2 ∧
      (∀ j : Fin 16, j ≠ k → t.stack[j] = s.stack[j]) ∧ t.sp.val = k.val + 1 ∧ t.pc.toNat = nnn.toNat ∧
      t.outcome = .ok ∧ Unchanged { stack := true } s t) ∧
    (s.sp.val = 16 → ∃ t, exec (.call nnn) s = .next t ∧ ExecuteFault .stackOverflow s t)

/-- S5: after a CALL, a RET in any state that has the stack as the CALL left it restores `pc` to the instruction after
the CALL, and `sp` to its value before it. -/
def Obligations.RetAfterCallReturns : Prop :=
  ∀ (s : State) (nnn : Addr), s.sp.val < 16 → ∃ t, exec (.call nnn) s = .next t ∧
    ∀ u : State, u.stack = t.stack → u.sp = t.sp →
      ∃ w, exec .ret u = .next w ∧ w.pc = s.pc + 2 ∧ w.sp = s.sp ∧ w.outcome = .ok

/-- S10: 16 consecutive CALLs from an empty stack succeed; the 17th returns StackOverflow and leaves the stack as the 16
left it. -/
def Obligations.SixteenCallsThenOverflow : Prop :=
  ∀ (s : State) (targets : List Addr) (nnn : Addr), s.sp.val = 0 → targets.length = 16 →
    ∃ t, execAll (targets.map .call) s = .next t ∧ t.outcome = .ok ∧ t.sp.val = 16 ∧
      ∃ u, exec (.call nnn) t = .next u ∧ u.outcome = .fault .stackOverflow ∧ u.stack = t.stack ∧ u.sp = t.sp

/-- R100, R101: SE and SNE with a byte. -/
def Obligations.SkipOnByte : Prop :=
  ∀ (s : State) (x : RegIx) (kk : Byte), ∃ t u,
    exec (.seVxKk x kk) s = .next t ∧ t.pc = (if s.getV x = kk then s.pc + 4 else s.pc + 2) ∧ t.outcome = .ok ∧
    Unchanged {} s t ∧
    exec (.sneVxKk x kk) s = .next u ∧ u.pc = (if s.getV x = kk then s.pc + 2 else s.pc + 4) ∧ u.outcome = .ok ∧
    Unchanged {} s u

/-- R102, R103: SE and SNE with a register. -/
def Obligations.SkipOnRegister : Prop :=
  ∀ (s : State) (x y : RegIx), ∃ t u,
    exec (.seVxVy x y) s = .next t ∧ t.pc = (if s.getV x = s.getV y then s.pc + 4 else s.pc + 2) ∧
    t.outcome = .ok ∧ Unchanged {} s t ∧
    exec (.sneVxVy x y) s = .next u ∧ u.pc = (if s.getV x = s.getV y then s.pc + 2 else s.pc + 4) ∧
    u.outcome = .ok ∧ Unchanged {} s u

/-- R104: BNNN goes to NNN + V0, not reduced to 12 bits (D29). -/
def Obligations.JpV0AddsV0 : Prop :=
  ∀ (s : State) (nnn : Addr), ∃ t, exec (.jpV0Nnn nnn) s = .next t ∧ t.pc.toNat = nnn.toNat + (s.getV 0).toNat ∧
    t.outcome = .ok ∧ Unchanged {} s t

/-! ## Loads and immediate add -/

/-- R85: LD VX, KK. -/
def Obligations.LdVxKkLoadsByte : Prop :=
  ∀ (s : State) (x : RegIx) (kk : Byte), ∃ t, exec (.ldVxKk x kk) s = .next t ∧ t.getV x = kk ∧ t.pc = s.pc + 2 ∧
    t.outcome = .ok ∧ Unchanged { regs := [x] } s t

/-- R86: ADD VX, KK is modulo 256 and leaves VF alone unless X = F. -/
def Obligations.AddVxKkWrapsWithoutFlag : Prop :=
  ∀ (s : State) (x : RegIx) (kk : Byte), ∃ t, exec (.addVxKk x kk) s = .next t ∧
    (t.getV x).toNat = ((s.getV x).toNat + kk.toNat) % 256 ∧ (x ≠ vF → t.getV vF = s.getV vF) ∧ t.pc = s.pc + 2 ∧
    t.outcome = .ok ∧ Unchanged { regs := [x] } s t

/-- R87: LD I, NNN. -/
def Obligations.LdILoadsAddress : Prop :=
  ∀ (s : State) (nnn : Addr), ∃ t, exec (.ldINnn nnn) s = .next t ∧ t.i.toNat = nnn.toNat ∧ t.pc = s.pc + 2 ∧
    t.outcome = .ok ∧ Unchanged { index := true } s t

/-- R110: LD VX, VY. -/
def Obligations.LdVxVyCopies : Prop :=
  ∀ (s : State) (x y : RegIx), ∃ t, exec (.ldVxVy x y) s = .next t ∧ t.getV x = s.getV y ∧ t.pc = s.pc + 2 ∧
    t.outcome = .ok ∧ Unchanged { regs := [x] } s t

/-! ## Display -/

/-- R90: CLS turns every pixel off and does not write VF. -/
def Obligations.ClsClearsEveryPixel : Prop :=
  ∀ s : State, ∃ t, exec .cls s = .next t ∧ (∀ y x, y < 32 → x < 64 → Gfx.get t.gfx y x = false) ∧
    t.pc = s.pc + 2 ∧ t.outcome = .ok ∧ Unchanged { pixels := true } s t

/-- R91, R93: where its run stays in memory, DXYN turns over exactly the pixels of the buffer where the sprite is on
(the origin wraps, the sprite is clipped), and VF is 1 iff one of them was on, else 0. The coordinates are those before
VF is written (D10). -/
def Obligations.DrwTogglesSpriteAndReportsCollision : Prop :=
  ∀ (s : State) (x y : RegIx) (n : Count), ¬(0 < n.val ∧ s.i.toNat + n.val - 1 > 0xFFF) →
    ∃ t, exec (.drw x y n) s = .next t ∧
      (∀ row col, row < 32 → col < 64 →
        Gfx.get t.gfx row col = (Gfx.get s.gfx row col ^^ s.spriteOn x y n row col)) ∧
      (t.getV vF = 1 ↔ ∃ row col, row < 32 ∧ col < 64 ∧ s.spriteOn x y n row col = true ∧
        Gfx.get s.gfx row col = true) ∧
      (t.getV vF = 1 ∨ t.getV vF = 0) ∧
      t.pc = s.pc + 2 ∧ t.outcome = .ok ∧ Unchanged { regs := [vF], pixels := true } s t

/-- S7: drawing a sprite a second time at the same coordinates takes it off again; VF is then 1 iff the first draw turned
a pixel on. -/
def Obligations.DrwTwiceRestoresPixels : Prop :=
  ∀ (s : State) (x y : RegIx) (n : Count), x ≠ vF → y ≠ vF → ¬(0 < n.val ∧ s.i.toNat + n.val - 1 > 0xFFF) →
    ∃ t u, exec (.drw x y n) s = .next t ∧ exec (.drw x y n) t = .next u ∧ u.gfx = s.gfx ∧
      (u.getV vF = 1 ↔ ∃ row col, row < 32 ∧ col < 64 ∧ Gfx.get s.gfx row col = false ∧
        Gfx.get t.gfx row col = true)

/-! ## ALU (45_ext_alu.md). With X = F the flag is what VF holds (R119, D27). -/

/-- R111 to R113: OR, AND, XOR bit by bit; VF is then 0 if Q_LOGIC_VF_RESET, and else it is left alone, unless X = F
(D22, both values). -/
def Obligations.LogicOpsAndVfReset : Prop :=
  ∀ (s : State) (x y : RegIx), ∃ t u w,
    exec (.orVxVy x y) s = .next t ∧ exec (.andVxVy x y) s = .next u ∧ exec (.xorVxVy x y) s = .next w ∧
    (x ≠ vF ∨ s.cfg.logicVfReset = false → ∀ j, j < 8 →
      (t.getV x).getLsbD j = ((s.getV x).getLsbD j || (s.getV y).getLsbD j) ∧
      (u.getV x).getLsbD j = ((s.getV x).getLsbD j && (s.getV y).getLsbD j) ∧
      (w.getV x).getLsbD j = ((s.getV x).getLsbD j ^^ (s.getV y).getLsbD j)) ∧
    ∀ e ∈ [t, u, w], (s.cfg.logicVfReset = true → e.getV vF = 0) ∧
      (s.cfg.logicVfReset = false → Unchanged { regs := [x] } s e) ∧
      e.pc = s.pc + 2 ∧ e.outcome = .ok ∧ Unchanged { regs := [x, vF] } s e

/-- R114, R119: ADD VX, VY modulo 256, VF the carry. -/
def Obligations.AddVxVyAndCarry : Prop :=
  ∀ (s : State) (x y : RegIx), ∃ t, exec (.addVxVy x y) s = .next t ∧
    (x ≠ vF → (t.getV x).toNat = ((s.getV x).toNat + (s.getV y).toNat) % 256) ∧
    t.getV vF = (if (s.getV x).toNat + (s.getV y).toNat > 255 then 1 else 0) ∧
    t.pc = s.pc + 2 ∧ t.outcome = .ok ∧ Unchanged { regs := [x, vF] } s t

/-- R115, R117, R119: SUB and SUBN modulo 256, VF 1 iff there is no borrow, equality included (D33). -/
def Obligations.SubtractionsAndBorrow : Prop :=
  ∀ (s : State) (x y : RegIx), ∃ t u,
    exec (.subVxVy x y) s = .next t ∧ exec (.subnVxVy x y) s = .next u ∧
    (x ≠ vF → (t.getV x).toNat = ((s.getV x).toNat + 256 - (s.getV y).toNat) % 256 ∧
      (u.getV x).toNat = ((s.getV y).toNat + 256 - (s.getV x).toNat) % 256) ∧
    t.getV vF = (if (s.getV x).toNat ≥ (s.getV y).toNat then 1 else 0) ∧
    u.getV vF = (if (s.getV y).toNat ≥ (s.getV x).toNat then 1 else 0) ∧
    ∀ e ∈ [t, u], e.pc = s.pc + 2 ∧ e.outcome = .ok ∧ Unchanged { regs := [x, vF] } s e

/-- R116, R118, R119: SHR and SHL of V[Y], or of V[X], by Q_SHIFT_SRC (D21, both values), VF the bit shifted out. -/
def Obligations.ShiftsAndBitShiftedOut : Prop :=
  ∀ (s : State) (x y : RegIx) (src : Byte),
    (s.cfg.shiftSrc = .vy → src = s.getV y) → (s.cfg.shiftSrc = .vx → src = s.getV x) → ∃ t u,
    exec (.shrVxVy x y) s = .next t ∧ exec (.shlVxVy x y) s = .next u ∧
    (x ≠ vF → (t.getV x).toNat = src.toNat / 2 ∧ (u.getV x).toNat = src.toNat * 2 % 256) ∧
    (t.getV vF).toNat = src.toNat % 2 ∧ (u.getV vF).toNat = src.toNat / 128 ∧
    ∀ e ∈ [t, u], e.pc = s.pc + 2 ∧ e.outcome = .ok ∧ Unchanged { regs := [x, vF] } s e

/-! ## Random, keypad, timers -/

/-- R125: RND gives a free byte (D26), masked with KK, and the next draw is another one. It holds whatever bytes are
drawn. -/
def Obligations.RndMasksAFreeByte : Prop :=
  ∀ (s : State) (x : RegIx) (kk : Byte), ∃ t, exec (.rndVxKk x kk) s = .next t ∧
    t.getV x = Config.rnd s.draws &&& kk ∧ t.draws = s.draws + 1 ∧ t.pc = s.pc + 2 ∧ t.outcome = .ok ∧
    Unchanged { regs := [x], draws := true } s t

/-- R126, R127: SKP and SKNP test the key that the low nibble of V[X] selects (D25). -/
def Obligations.SkipOnKey : Prop :=
  ∀ (s : State) (x : RegIx) (k : Fin 16), k.val = (s.getV x).toNat % 16 → ∃ t u,
    exec (.skpVx x) s = .next t ∧ t.pc = (if s.key[k] = true then s.pc + 4 else s.pc + 2) ∧ t.outcome = .ok ∧
    Unchanged {} s t ∧
    exec (.sknpVx x) s = .next u ∧ u.pc = (if s.key[k] = true then s.pc + 2 else s.pc + 4) ∧ u.outcome = .ok ∧
    Unchanged {} s u

/-- R128, R130, R131: FX07 reads the delay timer, FX15 and FX18 set the delay and the sound timer. -/
def Obligations.TimersReadAndSet : Prop :=
  ∀ (s : State) (x : RegIx),
    (∃ t, exec (.ldVxDt x) s = .next t ∧ t.getV x = s.dt ∧ t.pc = s.pc + 2 ∧ t.outcome = .ok ∧
      Unchanged { regs := [x] } s t) ∧
    (∃ t, exec (.ldDtVx x) s = .next t ∧ t.dt = s.getV x ∧ t.pc = s.pc + 2 ∧ t.outcome = .ok ∧
      Unchanged { delay := true } s t) ∧
    (∃ t, exec (.ldStVx x) s = .next t ∧ t.st = s.getV x ∧ t.pc = s.pc + 2 ∧ t.outcome = .ok ∧
      Unchanged { sound := true } s t)

/-- R129: FX0A takes the least key that is down; with none down it stays where it is, returning Ok (D24). -/
def Obligations.WaitForKeyTakesLeastKey : Prop :=
  ∀ (s : State) (x : RegIx),
    (∀ k : Fin 16, s.key[k] = true → (∀ j : Fin 16, j < k → s.key[j] = false) →
      ∃ t, exec (.ldVxK x) s = .next t ∧ (t.getV x).toNat = k.val ∧ t.pc = s.pc + 2 ∧ t.outcome = .ok ∧
        Unchanged { regs := [x] } s t) ∧
    ((∀ k : Fin 16, s.key[k] = false) →
      ∃ t, exec (.ldVxK x) s = .next t ∧ t.pc = s.pc ∧ t.outcome = .ok ∧ Unchanged {} s t)

/-! ## Index and memory -/

/-- R135, R136: FX1E adds to all 16 bits of `I` (D28), FX29 points it at the glyph of the low nibble (D25). -/
def Obligations.IndexAddAndGlyph : Prop :=
  ∀ (s : State) (x : RegIx),
    (∃ t, exec (.addIVx x) s = .next t ∧ t.i.toNat = (s.i.toNat + (s.getV x).toNat) % 65536 ∧ t.pc = s.pc + 2 ∧
      t.outcome = .ok ∧ Unchanged { index := true } s t) ∧
    (∃ t, exec (.ldFVx x) s = .next t ∧ t.i.toNat = 0x050 + 5 * ((s.getV x).toNat % 16) ∧ t.pc = s.pc + 2 ∧
      t.outcome = .ok ∧ Unchanged { index := true } s t)

/-- R137: FX33 stores the hundreds, tens and ones of V[X] at I, I + 1, I + 2, and changes no other byte. -/
def Obligations.BcdStoresThreeDigits : Prop :=
  ∀ (s : State) (x : RegIx), s.i.toNat + 2 ≤ 0xFFF → ∃ t, exec (.ldBVx x) s = .next t ∧
    (t.cell s.i.toNat).toNat = (s.getV x).toNat / 100 ∧
    (t.cell (s.i.toNat + 1)).toNat = (s.getV x).toNat / 10 % 10 ∧
    (t.cell (s.i.toNat + 2)).toNat = (s.getV x).toNat % 10 ∧
    t.pc = s.pc + 2 ∧ t.outcome = .ok ∧ Unchanged { cells := (s.i.toNat, 3) } s t

/-- R138: FX55 stores V0..VX at I and up, changes no other byte, and moves `I` past them if Q_MEM_I_INCREMENT (D23, both
values). -/
def Obligations.StoreRegistersAtIndex : Prop :=
  ∀ (s : State) (x : RegIx), s.i.toNat + x.val ≤ 0xFFF → ∃ t, exec (.ldMemVx x) s = .next t ∧
    (∀ r : RegIx, r ≤ x → t.cell (s.i.toNat + r.val) = s.getV r) ∧
    t.i.toNat = (if s.cfg.memIIncrement = true then s.i.toNat + x.val + 1 else s.i.toNat) ∧
    t.pc = s.pc + 2 ∧ t.outcome = .ok ∧ Unchanged { index := true, cells := (s.i.toNat, x.val + 1) } s t

/-- R139: FX65 loads V0..VX from I and up, leaves the other registers and all of memory alone, and moves `I` as FX55
does (D23, both values). -/
def Obligations.LoadRegistersFromIndex : Prop :=
  ∀ (s : State) (x : RegIx), s.i.toNat + x.val ≤ 0xFFF → ∃ t, exec (.ldVxMem x) s = .next t ∧
    (∀ r : RegIx, t.getV r = if r ≤ x then s.cell (s.i.toNat + r.val) else s.getV r) ∧
    t.i.toNat = (if s.cfg.memIIncrement = true then s.i.toNat + x.val + 1 else s.i.toNat) ∧
    t.pc = s.pc + 2 ∧ t.outcome = .ok ∧
    Unchanged { regs := (List.finRange 16).filter (· ≤ x), index := true } s t

/-- R38, R176: DXYN, FX33, FX55, FX65 with a run that leaves memory write nothing and report MemoryOutOfBounds (the
spec's own fault, D7 and D11; log entry 13). -/
def Obligations.RunsThatLeaveMemoryFault : Prop :=
  ∀ (i : Instr) (s : State), RunLeavesMemory i s → ∃ t, exec i s = .next t ∧ ExecuteFault .memoryOutOfBounds s t

/-- R43: what FX55 stored, FX65 from the same address gives back, in any state that has the same memory. -/
def Obligations.LoadAfterStoreRestoresRegisters : Prop :=
  ∀ (s : State) (x : RegIx), s.i.toNat + x.val ≤ 0xFFF → ∃ t, exec (.ldMemVx x) s = .next t ∧
    ∀ u : State, u.mem = t.mem → u.cfg = t.cfg → u.i = s.i →
      ∃ w, exec (.ldVxMem x) u = .next w ∧ ∀ r : RegIx, r ≤ x → w.getV r = s.getV r

/-! ## Host commands -/

/-- R183: `tickTimers` takes one off each timer that is above 0, and changes nothing else. -/
def Obligations.TickTimersFloorsAtZero : Prop :=
  ∀ s : State, ∃ t, issue .tickTimers (.running s) = .next (.running t, .nothing) ∧
    t.dt.toNat = s.dt.toNat - 1 ∧ t.st.toNat = s.st.toNat - 1 ∧ t = { s with dt := t.dt, st := t.st }

/-- R152: `load` of more than 3584 bytes writes nothing and answers RomTooLarge (D13); else it writes the bytes from
0x200 up and nothing but them. -/
def Obligations.LoadWritesRomOrRefuses : Prop :=
  ∀ (s : State) (rom : List Byte),
    (rom.length > 3584 → issue (.load rom) (.running s) = .next (.running s, .loaded .romTooLarge)) ∧
    (rom.length ≤ 3584 → ∃ t, issue (.load rom) (.running s) = .next (.running t, .loaded .ok) ∧
      (∀ k b, rom[k]? = some b → t.cell (0x200 + k) = b) ∧
      (∀ a, a < 0x200 ∨ 0x200 + rom.length ≤ a → t.cell a = s.cell a) ∧
      t = { s with mem := t.mem })

/-- R153 to R156: `SetKey` writes one flag (an index above 15 is refused, D15), and the read commands change nothing:
the keys in index order, pixel (x, y) at `y * 64 + x` (D9), the sound timer. -/
def Obligations.KeyAndReadCommands : Prop :=
  ∀ s : State,
    (∀ (k : Fin 16) (p : Bool), ∃ t, issue (.setKey k.val p) (.running s) = .next (.running t, .nothing) ∧
      t.key[k] = p ∧ (∀ j : Fin 16, j ≠ k → t.key[j] = s.key[j]) ∧ t = { s with key := t.key }) ∧
    (∀ n p, n > 15 → issue (.setKey n p) (.running s) = .refused (.keyIndexOutOfRange n)) ∧
    issue .getKeys (.running s) = .next (.running s, .keys s.key) ∧
    issue .getSoundTimer (.running s) = .next (.running s, .soundTimer s.st) ∧
    ∃ px, issue .getPixelBuffer (.running s) = .next (.running s, .pixels px) ∧
      ∀ (y : Fin 32) (x : Fin 64), px[y.val * 64 + x.val]? = some s.gfx[y][x]

/-- R27 (D12): before the first reset every command but `reset` is refused. -/
def Obligations.CommandsBeforeResetRefused : Prop :=
  ∀ (cfg : Config) (c : Command), c ≠ .reset → issue c (.powerOn cfg) = .refused .commandBeforeReset
end

