-- ==== Sys2Proof/Laws/State.lean ====
section
/-! SUPPORT. What each update of a state leaves alone, field by field, and what it writes. -/

namespace Sys2Proof.Machine

variable (s : State)

/-! ### `setCell` -/

@[simp] theorem setCell_getV (a : Nat) (b : Byte) (r : RegIx) : (s.setCell a b).getV r = s.getV r := rfl
@[simp] theorem setCell_i (a : Nat) (b : Byte) : (s.setCell a b).i = s.i := rfl
@[simp] theorem setCell_pc (a : Nat) (b : Byte) : (s.setCell a b).pc = s.pc := rfl
@[simp] theorem setCell_stack (a : Nat) (b : Byte) : (s.setCell a b).stack = s.stack := rfl
@[simp] theorem setCell_sp (a : Nat) (b : Byte) : (s.setCell a b).sp = s.sp := rfl
@[simp] theorem setCell_dt (a : Nat) (b : Byte) : (s.setCell a b).dt = s.dt := rfl
@[simp] theorem setCell_st (a : Nat) (b : Byte) : (s.setCell a b).st = s.st := rfl
@[simp] theorem setCell_key (a : Nat) (b : Byte) : (s.setCell a b).key = s.key := rfl
@[simp] theorem setCell_gfx (a : Nat) (b : Byte) : (s.setCell a b).gfx = s.gfx := rfl
@[simp] theorem setCell_mem (a : Nat) (b : Byte) : (s.setCell a b).mem = s.mem.write s.cfg.font a b := rfl
@[simp] theorem setCell_outcome (a : Nat) (b : Byte) : (s.setCell a b).outcome = s.outcome := rfl
@[simp] theorem setCell_draws (a : Nat) (b : Byte) : (s.setCell a b).draws = s.draws := rfl
@[simp] theorem setCell_cfg (a : Nat) (b : Byte) : (s.setCell a b).cfg = s.cfg := rfl
@[simp] theorem setCell_npc (a : Nat) (b : Byte) : (s.setCell a b).npc = s.npc := rfl

/-! ### `setV` -/

@[simp] theorem setV_i (x : RegIx) (b : Byte) : (s.setV x b).i = s.i := rfl
@[simp] theorem setV_pc (x : RegIx) (b : Byte) : (s.setV x b).pc = s.pc := rfl
@[simp] theorem setV_stack (x : RegIx) (b : Byte) : (s.setV x b).stack = s.stack := rfl
@[simp] theorem setV_sp (x : RegIx) (b : Byte) : (s.setV x b).sp = s.sp := rfl
@[simp] theorem setV_dt (x : RegIx) (b : Byte) : (s.setV x b).dt = s.dt := rfl
@[simp] theorem setV_st (x : RegIx) (b : Byte) : (s.setV x b).st = s.st := rfl
@[simp] theorem setV_key (x : RegIx) (b : Byte) : (s.setV x b).key = s.key := rfl
@[simp] theorem setV_gfx (x : RegIx) (b : Byte) : (s.setV x b).gfx = s.gfx := rfl
@[simp] theorem setV_mem (x : RegIx) (b : Byte) : (s.setV x b).mem = s.mem := rfl
@[simp] theorem setV_outcome (x : RegIx) (b : Byte) : (s.setV x b).outcome = s.outcome := rfl
@[simp] theorem setV_draws (x : RegIx) (b : Byte) : (s.setV x b).draws = s.draws := rfl
@[simp] theorem setV_cfg (x : RegIx) (b : Byte) : (s.setV x b).cfg = s.cfg := rfl
@[simp] theorem setV_cell (x : RegIx) (b : Byte) (k : Nat) : (s.setV x b).cell k = s.cell k := rfl
@[simp] theorem setV_npc (x : RegIx) (b : Byte) : (s.setV x b).npc = s.npc := rfl

/-! ### `setVThenFlag` -/

@[simp] theorem setVThenFlag_i (x : RegIx) (b f : Byte) : (s.setVThenFlag x b f).i = s.i := rfl
@[simp] theorem setVThenFlag_pc (x : RegIx) (b f : Byte) : (s.setVThenFlag x b f).pc = s.pc := rfl
@[simp] theorem setVThenFlag_stack (x : RegIx) (b f : Byte) : (s.setVThenFlag x b f).stack = s.stack := rfl
@[simp] theorem setVThenFlag_sp (x : RegIx) (b f : Byte) : (s.setVThenFlag x b f).sp = s.sp := rfl
@[simp] theorem setVThenFlag_dt (x : RegIx) (b f : Byte) : (s.setVThenFlag x b f).dt = s.dt := rfl
@[simp] theorem setVThenFlag_st (x : RegIx) (b f : Byte) : (s.setVThenFlag x b f).st = s.st := rfl
@[simp] theorem setVThenFlag_key (x : RegIx) (b f : Byte) : (s.setVThenFlag x b f).key = s.key := rfl
@[simp] theorem setVThenFlag_gfx (x : RegIx) (b f : Byte) : (s.setVThenFlag x b f).gfx = s.gfx := rfl
@[simp] theorem setVThenFlag_mem (x : RegIx) (b f : Byte) : (s.setVThenFlag x b f).mem = s.mem := rfl
@[simp] theorem setVThenFlag_outcome (x : RegIx) (b f : Byte) : (s.setVThenFlag x b f).outcome = s.outcome := rfl
@[simp] theorem setVThenFlag_draws (x : RegIx) (b f : Byte) : (s.setVThenFlag x b f).draws = s.draws := rfl
@[simp] theorem setVThenFlag_cfg (x : RegIx) (b f : Byte) : (s.setVThenFlag x b f).cfg = s.cfg := rfl
@[simp] theorem setVThenFlag_cell (x : RegIx) (b f : Byte) (k : Nat) : (s.setVThenFlag x b f).cell k = s.cell k := rfl
@[simp] theorem setVThenFlag_npc (x : RegIx) (b f : Byte) : (s.setVThenFlag x b f).npc = s.npc := rfl

/-! ### `setVRun` -/

@[simp] theorem setVRun_i (bs : List Byte) : (s.setVRun bs).i = s.i := rfl
@[simp] theorem setVRun_pc (bs : List Byte) : (s.setVRun bs).pc = s.pc := rfl
@[simp] theorem setVRun_stack (bs : List Byte) : (s.setVRun bs).stack = s.stack := rfl
@[simp] theorem setVRun_sp (bs : List Byte) : (s.setVRun bs).sp = s.sp := rfl
@[simp] theorem setVRun_dt (bs : List Byte) : (s.setVRun bs).dt = s.dt := rfl
@[simp] theorem setVRun_st (bs : List Byte) : (s.setVRun bs).st = s.st := rfl
@[simp] theorem setVRun_key (bs : List Byte) : (s.setVRun bs).key = s.key := rfl
@[simp] theorem setVRun_gfx (bs : List Byte) : (s.setVRun bs).gfx = s.gfx := rfl
@[simp] theorem setVRun_mem (bs : List Byte) : (s.setVRun bs).mem = s.mem := rfl
@[simp] theorem setVRun_outcome (bs : List Byte) : (s.setVRun bs).outcome = s.outcome := rfl
@[simp] theorem setVRun_draws (bs : List Byte) : (s.setVRun bs).draws = s.draws := rfl
@[simp] theorem setVRun_cfg (bs : List Byte) : (s.setVRun bs).cfg = s.cfg := rfl
@[simp] theorem setVRun_cell (bs : List Byte) (k : Nat) : (s.setVRun bs).cell k = s.cell k := rfl
@[simp] theorem setVRun_npc (bs : List Byte) : (s.setVRun bs).npc = s.npc := rfl

/-! ### `setI` -/

@[simp] theorem setI_getV (w : Word) (r : RegIx) : (s.setI w).getV r = s.getV r := rfl
@[simp] theorem setI_i (w : Word) : (s.setI w).i = w := rfl
@[simp] theorem setI_pc (w : Word) : (s.setI w).pc = s.pc := rfl
@[simp] theorem setI_stack (w : Word) : (s.setI w).stack = s.stack := rfl
@[simp] theorem setI_sp (w : Word) : (s.setI w).sp = s.sp := rfl
@[simp] theorem setI_dt (w : Word) : (s.setI w).dt = s.dt := rfl
@[simp] theorem setI_st (w : Word) : (s.setI w).st = s.st := rfl
@[simp] theorem setI_key (w : Word) : (s.setI w).key = s.key := rfl
@[simp] theorem setI_gfx (w : Word) : (s.setI w).gfx = s.gfx := rfl
@[simp] theorem setI_mem (w : Word) : (s.setI w).mem = s.mem := rfl
@[simp] theorem setI_outcome (w : Word) : (s.setI w).outcome = s.outcome := rfl
@[simp] theorem setI_draws (w : Word) : (s.setI w).draws = s.draws := rfl
@[simp] theorem setI_cfg (w : Word) : (s.setI w).cfg = s.cfg := rfl
@[simp] theorem setI_cell (w : Word) (k : Nat) : (s.setI w).cell k = s.cell k := rfl
@[simp] theorem setI_npc (w : Word) : (s.setI w).npc = s.npc := rfl

/-! ### `setDt` -/

@[simp] theorem setDt_getV (b : Byte) (r : RegIx) : (s.setDt b).getV r = s.getV r := rfl
@[simp] theorem setDt_i (b : Byte) : (s.setDt b).i = s.i := rfl
@[simp] theorem setDt_pc (b : Byte) : (s.setDt b).pc = s.pc := rfl
@[simp] theorem setDt_stack (b : Byte) : (s.setDt b).stack = s.stack := rfl
@[simp] theorem setDt_sp (b : Byte) : (s.setDt b).sp = s.sp := rfl
@[simp] theorem setDt_dt (b : Byte) : (s.setDt b).dt = b := rfl
@[simp] theorem setDt_st (b : Byte) : (s.setDt b).st = s.st := rfl
@[simp] theorem setDt_key (b : Byte) : (s.setDt b).key = s.key := rfl
@[simp] theorem setDt_gfx (b : Byte) : (s.setDt b).gfx = s.gfx := rfl
@[simp] theorem setDt_mem (b : Byte) : (s.setDt b).mem = s.mem := rfl
@[simp] theorem setDt_outcome (b : Byte) : (s.setDt b).outcome = s.outcome := rfl
@[simp] theorem setDt_draws (b : Byte) : (s.setDt b).draws = s.draws := rfl
@[simp] theorem setDt_cfg (b : Byte) : (s.setDt b).cfg = s.cfg := rfl
@[simp] theorem setDt_cell (b : Byte) (k : Nat) : (s.setDt b).cell k = s.cell k := rfl
@[simp] theorem setDt_npc (b : Byte) : (s.setDt b).npc = s.npc := rfl

/-! ### `setSt` -/

@[simp] theorem setSt_getV (b : Byte) (r : RegIx) : (s.setSt b).getV r = s.getV r := rfl
@[simp] theorem setSt_i (b : Byte) : (s.setSt b).i = s.i := rfl
@[simp] theorem setSt_pc (b : Byte) : (s.setSt b).pc = s.pc := rfl
@[simp] theorem setSt_stack (b : Byte) : (s.setSt b).stack = s.stack := rfl
@[simp] theorem setSt_sp (b : Byte) : (s.setSt b).sp = s.sp := rfl
@[simp] theorem setSt_dt (b : Byte) : (s.setSt b).dt = s.dt := rfl
@[simp] theorem setSt_st (b : Byte) : (s.setSt b).st = b := rfl
@[simp] theorem setSt_key (b : Byte) : (s.setSt b).key = s.key := rfl
@[simp] theorem setSt_gfx (b : Byte) : (s.setSt b).gfx = s.gfx := rfl
@[simp] theorem setSt_mem (b : Byte) : (s.setSt b).mem = s.mem := rfl
@[simp] theorem setSt_outcome (b : Byte) : (s.setSt b).outcome = s.outcome := rfl
@[simp] theorem setSt_draws (b : Byte) : (s.setSt b).draws = s.draws := rfl
@[simp] theorem setSt_cfg (b : Byte) : (s.setSt b).cfg = s.cfg := rfl
@[simp] theorem setSt_cell (b : Byte) (k : Nat) : (s.setSt b).cell k = s.cell k := rfl
@[simp] theorem setSt_npc (b : Byte) : (s.setSt b).npc = s.npc := rfl

/-! ### `drawn` -/

@[simp] theorem drawn_getV (r : RegIx) : s.drawn.getV r = s.getV r := rfl
@[simp] theorem drawn_i : s.drawn.i = s.i := rfl
@[simp] theorem drawn_pc : s.drawn.pc = s.pc := rfl
@[simp] theorem drawn_stack : s.drawn.stack = s.stack := rfl
@[simp] theorem drawn_sp : s.drawn.sp = s.sp := rfl
@[simp] theorem drawn_dt : s.drawn.dt = s.dt := rfl
@[simp] theorem drawn_st : s.drawn.st = s.st := rfl
@[simp] theorem drawn_key : s.drawn.key = s.key := rfl
@[simp] theorem drawn_gfx : s.drawn.gfx = s.gfx := rfl
@[simp] theorem drawn_mem : s.drawn.mem = s.mem := rfl
@[simp] theorem drawn_outcome : s.drawn.outcome = s.outcome := rfl
@[simp] theorem drawn_draws : s.drawn.draws = s.draws + 1 := rfl
@[simp] theorem drawn_cfg : s.drawn.cfg = s.cfg := rfl
@[simp] theorem drawn_cell (k : Nat) : s.drawn.cell k = s.cell k := rfl
@[simp] theorem drawn_npc : s.drawn.npc = s.npc := rfl

/-! ### `setGfx` -/

@[simp] theorem setGfx_getV (g : Gfx) (r : RegIx) : (s.setGfx g).getV r = s.getV r := rfl
@[simp] theorem setGfx_i (g : Gfx) : (s.setGfx g).i = s.i := rfl
@[simp] theorem setGfx_pc (g : Gfx) : (s.setGfx g).pc = s.pc := rfl
@[simp] theorem setGfx_stack (g : Gfx) : (s.setGfx g).stack = s.stack := rfl
@[simp] theorem setGfx_sp (g : Gfx) : (s.setGfx g).sp = s.sp := rfl
@[simp] theorem setGfx_dt (g : Gfx) : (s.setGfx g).dt = s.dt := rfl
@[simp] theorem setGfx_st (g : Gfx) : (s.setGfx g).st = s.st := rfl
@[simp] theorem setGfx_key (g : Gfx) : (s.setGfx g).key = s.key := rfl
@[simp] theorem setGfx_gfx (g : Gfx) : (s.setGfx g).gfx = g := rfl
@[simp] theorem setGfx_mem (g : Gfx) : (s.setGfx g).mem = s.mem := rfl
@[simp] theorem setGfx_outcome (g : Gfx) : (s.setGfx g).outcome = s.outcome := rfl
@[simp] theorem setGfx_draws (g : Gfx) : (s.setGfx g).draws = s.draws := rfl
@[simp] theorem setGfx_cfg (g : Gfx) : (s.setGfx g).cfg = s.cfg := rfl
@[simp] theorem setGfx_cell (g : Gfx) (k : Nat) : (s.setGfx g).cell k = s.cell k := rfl
@[simp] theorem setGfx_npc (g : Gfx) : (s.setGfx g).npc = s.npc := rfl

/-! ### `jump` -/

@[simp] theorem jump_getV (w : Word) (r : RegIx) : (s.jump w).getV r = s.getV r := rfl
@[simp] theorem jump_i (w : Word) : (s.jump w).i = s.i := rfl
@[simp] theorem jump_pc (w : Word) : (s.jump w).pc = w := rfl
@[simp] theorem jump_stack (w : Word) : (s.jump w).stack = s.stack := rfl
@[simp] theorem jump_sp (w : Word) : (s.jump w).sp = s.sp := rfl
@[simp] theorem jump_dt (w : Word) : (s.jump w).dt = s.dt := rfl
@[simp] theorem jump_st (w : Word) : (s.jump w).st = s.st := rfl
@[simp] theorem jump_key (w : Word) : (s.jump w).key = s.key := rfl
@[simp] theorem jump_gfx (w : Word) : (s.jump w).gfx = s.gfx := rfl
@[simp] theorem jump_mem (w : Word) : (s.jump w).mem = s.mem := rfl
@[simp] theorem jump_outcome (w : Word) : (s.jump w).outcome = .ok := rfl
@[simp] theorem jump_draws (w : Word) : (s.jump w).draws = s.draws := rfl
@[simp] theorem jump_cfg (w : Word) : (s.jump w).cfg = s.cfg := rfl
@[simp] theorem jump_cell (w : Word) (k : Nat) : (s.jump w).cell k = s.cell k := rfl

/-! ### `advance` -/

@[simp] theorem advance_getV (r : RegIx) : s.advance.getV r = s.getV r := rfl
@[simp] theorem advance_i : s.advance.i = s.i := rfl
@[simp] theorem advance_pc : s.advance.pc = s.npc := rfl
@[simp] theorem advance_stack : s.advance.stack = s.stack := rfl
@[simp] theorem advance_sp : s.advance.sp = s.sp := rfl
@[simp] theorem advance_dt : s.advance.dt = s.dt := rfl
@[simp] theorem advance_st : s.advance.st = s.st := rfl
@[simp] theorem advance_key : s.advance.key = s.key := rfl
@[simp] theorem advance_gfx : s.advance.gfx = s.gfx := rfl
@[simp] theorem advance_mem : s.advance.mem = s.mem := rfl
@[simp] theorem advance_outcome : s.advance.outcome = .ok := rfl
@[simp] theorem advance_draws : s.advance.draws = s.draws := rfl
@[simp] theorem advance_cfg : s.advance.cfg = s.cfg := rfl
@[simp] theorem advance_cell (k : Nat) : s.advance.cell k = s.cell k := rfl

/-! ### `skipIf` -/

@[simp] theorem skipIf_getV (c : Bool) (r : RegIx) : (s.skipIf c).getV r = s.getV r := rfl
@[simp] theorem skipIf_i (c : Bool) : (s.skipIf c).i = s.i := rfl
@[simp] theorem skipIf_pc (c : Bool) : (s.skipIf c).pc = if c then s.npc + 2 else s.npc := rfl
@[simp] theorem skipIf_stack (c : Bool) : (s.skipIf c).stack = s.stack := rfl
@[simp] theorem skipIf_sp (c : Bool) : (s.skipIf c).sp = s.sp := rfl
@[simp] theorem skipIf_dt (c : Bool) : (s.skipIf c).dt = s.dt := rfl
@[simp] theorem skipIf_st (c : Bool) : (s.skipIf c).st = s.st := rfl
@[simp] theorem skipIf_key (c : Bool) : (s.skipIf c).key = s.key := rfl
@[simp] theorem skipIf_gfx (c : Bool) : (s.skipIf c).gfx = s.gfx := rfl
@[simp] theorem skipIf_mem (c : Bool) : (s.skipIf c).mem = s.mem := rfl
@[simp] theorem skipIf_outcome (c : Bool) : (s.skipIf c).outcome = .ok := rfl
@[simp] theorem skipIf_draws (c : Bool) : (s.skipIf c).draws = s.draws := rfl
@[simp] theorem skipIf_cfg (c : Bool) : (s.skipIf c).cfg = s.cfg := rfl
@[simp] theorem skipIf_cell (c : Bool) (k : Nat) : (s.skipIf c).cell k = s.cell k := rfl

/-! ### `raise` -/

@[simp] theorem raise_getV (f : Fault) (r : RegIx) : (s.raise f).getV r = s.getV r := rfl
@[simp] theorem raise_i (f : Fault) : (s.raise f).i = s.i := rfl
@[simp] theorem raise_pc (f : Fault) : (s.raise f).pc = s.faultPc f := rfl
@[simp] theorem raise_stack (f : Fault) : (s.raise f).stack = s.stack := rfl
@[simp] theorem raise_sp (f : Fault) : (s.raise f).sp = s.sp := rfl
@[simp] theorem raise_dt (f : Fault) : (s.raise f).dt = s.dt := rfl
@[simp] theorem raise_st (f : Fault) : (s.raise f).st = s.st := rfl
@[simp] theorem raise_key (f : Fault) : (s.raise f).key = s.key := rfl
@[simp] theorem raise_gfx (f : Fault) : (s.raise f).gfx = s.gfx := rfl
@[simp] theorem raise_mem (f : Fault) : (s.raise f).mem = s.mem := rfl
@[simp] theorem raise_outcome (f : Fault) : (s.raise f).outcome = .fault f := rfl
@[simp] theorem raise_draws (f : Fault) : (s.raise f).draws = s.draws := rfl
@[simp] theorem raise_cfg (f : Fault) : (s.raise f).cfg = s.cfg := rfl
@[simp] theorem raise_cell (f : Fault) (k : Nat) : (s.raise f).cell k = s.cell k := rfl

/-! ### `setKey` -/

@[simp] theorem setKey_getV (k : Fin 16) (p : Bool) (r : RegIx) : (s.setKey k p).getV r = s.getV r := rfl
@[simp] theorem setKey_i (k : Fin 16) (p : Bool) : (s.setKey k p).i = s.i := rfl
@[simp] theorem setKey_pc (k : Fin 16) (p : Bool) : (s.setKey k p).pc = s.pc := rfl
@[simp] theorem setKey_stack (k : Fin 16) (p : Bool) : (s.setKey k p).stack = s.stack := rfl
@[simp] theorem setKey_sp (k : Fin 16) (p : Bool) : (s.setKey k p).sp = s.sp := rfl
@[simp] theorem setKey_dt (k : Fin 16) (p : Bool) : (s.setKey k p).dt = s.dt := rfl
@[simp] theorem setKey_st (k : Fin 16) (p : Bool) : (s.setKey k p).st = s.st := rfl
@[simp] theorem setKey_key (k : Fin 16) (p : Bool) : (s.setKey k p).key = s.key.set k p := rfl
@[simp] theorem setKey_gfx (k : Fin 16) (p : Bool) : (s.setKey k p).gfx = s.gfx := rfl
@[simp] theorem setKey_mem (k : Fin 16) (p : Bool) : (s.setKey k p).mem = s.mem := rfl
@[simp] theorem setKey_outcome (k : Fin 16) (p : Bool) : (s.setKey k p).outcome = s.outcome := rfl
@[simp] theorem setKey_draws (k : Fin 16) (p : Bool) : (s.setKey k p).draws = s.draws := rfl
@[simp] theorem setKey_cfg (k : Fin 16) (p : Bool) : (s.setKey k p).cfg = s.cfg := rfl
@[simp] theorem setKey_cell (k : Fin 16) (p : Bool) (j : Nat) : (s.setKey k p).cell j = s.cell j := rfl
@[simp] theorem setKey_npc (k : Fin 16) (p : Bool) : (s.setKey k p).npc = s.npc := rfl

/-! ### `tickTimers` -/

@[simp] theorem tickTimers_getV (r : RegIx) : s.tickTimers.getV r = s.getV r := rfl
@[simp] theorem tickTimers_i : s.tickTimers.i = s.i := rfl
@[simp] theorem tickTimers_pc : s.tickTimers.pc = s.pc := rfl
@[simp] theorem tickTimers_stack : s.tickTimers.stack = s.stack := rfl
@[simp] theorem tickTimers_sp : s.tickTimers.sp = s.sp := rfl
@[simp] theorem tickTimers_dt : s.tickTimers.dt = tick s.dt := rfl
@[simp] theorem tickTimers_st : s.tickTimers.st = tick s.st := rfl
@[simp] theorem tickTimers_key : s.tickTimers.key = s.key := rfl
@[simp] theorem tickTimers_gfx : s.tickTimers.gfx = s.gfx := rfl
@[simp] theorem tickTimers_mem : s.tickTimers.mem = s.mem := rfl
@[simp] theorem tickTimers_outcome : s.tickTimers.outcome = s.outcome := rfl
@[simp] theorem tickTimers_draws : s.tickTimers.draws = s.draws := rfl
@[simp] theorem tickTimers_cfg : s.tickTimers.cfg = s.cfg := rfl
@[simp] theorem tickTimers_cell (k : Nat) : s.tickTimers.cell k = s.cell k := rfl
@[simp] theorem tickTimers_npc : s.tickTimers.npc = s.npc := rfl

/-! ### General registers (10_state.md R11, 45_ext_alu.md R119) -/

@[simp] theorem setV_getV (x : RegIx) (b : Byte) (r : RegIx) :
    (s.setV x b).getV r = if r = x then b else s.getV r := by
  simp only [State.setV, State.getV, Fin.getElem_fin, Vector.getElem_set]
  by_cases h : r = x
  · simp [h]
  · simp [h, Fin.val_ne_of_ne (Ne.symm h)]

@[simp] theorem setVThenFlag_getV (x : RegIx) (b f : Byte) (r : RegIx) :
    (s.setVThenFlag x b f).getV r = if r = vF then f else if r = x then b else s.getV r := by
  simp [State.setVThenFlag]

@[simp] theorem setVRun_getV (bs : List Byte) (r : RegIx) :
    (s.setVRun bs).getV r = bs.getD r.val (s.getV r) := by
  simp [State.setVRun, State.getV]

/-- The logic operations' write, whatever Q_LOGIC_VF_RESET is. -/
theorem setLogic_cases (x : RegIx) (b : Byte) :
    s.setLogic x b = if s.cfg.logicVfReset then s.setVThenFlag x b 0 else s.setV x b := rfl

@[simp] theorem setLogic_i (x : RegIx) (b : Byte) : (s.setLogic x b).i = s.i := by
  unfold State.setLogic; split <;> rfl
@[simp] theorem setLogic_pc (x : RegIx) (b : Byte) : (s.setLogic x b).pc = s.pc := by
  unfold State.setLogic; split <;> rfl
@[simp] theorem setLogic_stack (x : RegIx) (b : Byte) : (s.setLogic x b).stack = s.stack := by
  unfold State.setLogic; split <;> rfl
@[simp] theorem setLogic_sp (x : RegIx) (b : Byte) : (s.setLogic x b).sp = s.sp := by
  unfold State.setLogic; split <;> rfl
@[simp] theorem setLogic_dt (x : RegIx) (b : Byte) : (s.setLogic x b).dt = s.dt := by
  unfold State.setLogic; split <;> rfl
@[simp] theorem setLogic_st (x : RegIx) (b : Byte) : (s.setLogic x b).st = s.st := by
  unfold State.setLogic; split <;> rfl
@[simp] theorem setLogic_key (x : RegIx) (b : Byte) : (s.setLogic x b).key = s.key := by
  unfold State.setLogic; split <;> rfl
@[simp] theorem setLogic_gfx (x : RegIx) (b : Byte) : (s.setLogic x b).gfx = s.gfx := by
  unfold State.setLogic; split <;> rfl
@[simp] theorem setLogic_mem (x : RegIx) (b : Byte) : (s.setLogic x b).mem = s.mem := by
  unfold State.setLogic; split <;> rfl
@[simp] theorem setLogic_outcome (x : RegIx) (b : Byte) : (s.setLogic x b).outcome = s.outcome := by
  unfold State.setLogic; split <;> rfl
@[simp] theorem setLogic_draws (x : RegIx) (b : Byte) : (s.setLogic x b).draws = s.draws := by
  unfold State.setLogic; split <;> rfl
@[simp] theorem setLogic_cfg (x : RegIx) (b : Byte) : (s.setLogic x b).cfg = s.cfg := by
  unfold State.setLogic; split <;> rfl
@[simp] theorem setLogic_cell (x : RegIx) (b : Byte) (k : Nat) : (s.setLogic x b).cell k = s.cell k := by
  unfold State.setLogic; split <;> rfl
@[simp] theorem setLogic_npc (x : RegIx) (b : Byte) : (s.setLogic x b).npc = s.npc := by
  unfold State.setLogic; split <;> rfl

@[simp] theorem setLogic_getV (x : RegIx) (b : Byte) (r : RegIx) :
    (s.setLogic x b).getV r =
      if r = vF ∧ s.cfg.logicVfReset = true then 0 else if r = x then b else s.getV r := by
  unfold State.setLogic
  by_cases h : s.cfg.logicVfReset = true <;> simp [h]

end Sys2Proof.Machine
end

