-- ==== Sys2Proof/Laws/Memory.lean ====
section
/-! SUPPORT. Memory: a cell reads as it was last written, a write leaves every other cell alone, and every operation
keeps the canonical form. The read laws need no premise on the list. -/

namespace Sys2Proof.Machine

/-! ### Cells -/

theorem lookup_insert (m : Memory) (a : Nat) (b : Byte) (k : Nat) :
    (Memory.insert a b m).lookup k = if k = a then some b else m.lookup k := by
  induction m with
  | nil => simp only [Memory.insert, Memory.lookup, eq_comm]
  | cons c m ih =>
    obtain ⟨j, c⟩ := c
    simp only [Memory.insert]
    split_ifs <;> simp only [Memory.lookup, ih] <;> grind

theorem lookup_erase (m : Memory) (a k : Nat) :
    (Memory.erase a m).lookup k = if k = a then none else m.lookup k := by
  induction m with
  | nil => simp [Memory.erase, Memory.lookup]
  | cons c m ih =>
    obtain ⟨j, c⟩ := c
    simp only [Memory.erase] at ih ⊢
    simp only [List.filter_cons, Memory.lookup]
    split_ifs <;> simp_all [Memory.lookup]

theorem read_write (font : Font) (m : Memory) (a : Nat) (b : Byte) (k : Nat) :
    (m.write font a b).read font k = if k = a then b else m.read font k := by
  unfold Memory.write Memory.read
  split_ifs with hb hk hk
  · simp [lookup_erase, hk, hb]
  · simp [lookup_erase, hk]
  · simp [lookup_insert, hk]
  · simp [lookup_insert, hk]

/-- A cell reads as it was last written, and every other cell as before. -/
@[simp] theorem setCell_cell (s : State) (a : Nat) (b : Byte) (k : Nat) :
    (s.setCell a b).cell k = if k = a then b else s.cell k := read_write _ _ _ _ _

/-! ### The canonical form -/

theorem wf_cons (font : Font) (k : Nat) (b : Byte) (m : Memory) :
    Memory.wf font ((k, b) :: m) = true ↔
      k < 4096 ∧ b ≠ resetByte font k ∧ (∀ c ∈ m, k < c.1) ∧ Memory.wf font m = true := by
  simp [Memory.wf, and_assoc]

theorem mem_insert_fst (m : Memory) (a : Nat) (b : Byte) (c : Host.Cell) (h : c ∈ Memory.insert a b m) :
    c.1 = a ∨ c ∈ m := by
  induction m with
  | nil => simp_all [Memory.insert]
  | cons d m ih =>
    simp only [Memory.insert] at h
    split_ifs at h <;> simp only [List.mem_cons] at h ⊢ <;> grind

theorem insert_wf (font : Font) (m : Memory) (a : Nat) (b : Byte) (ha : a < 4096)
    (hb : b ≠ resetByte font a) (h : m.wf font = true) : Memory.wf font (Memory.insert a b m) = true := by
  induction m with
  | nil => simp [Memory.insert, Memory.wf, ha, hb]
  | cons c m ih =>
    obtain ⟨k, c⟩ := c
    obtain ⟨hk, hc, hlt, hm⟩ := (wf_cons ..).1 h
    simp only [Memory.insert]
    split_ifs with h1 h2
    · refine (wf_cons ..).2 ⟨ha, hb, ?_, h⟩
      intro d hd
      rcases List.mem_cons.1 hd with rfl | hd
      · exact h1
      · exact h1.trans (hlt d hd)
    · subst h2
      exact (wf_cons ..).2 ⟨ha, hb, hlt, hm⟩
    · refine (wf_cons ..).2 ⟨hk, hc, ?_, ih hm⟩
      intro d hd
      rcases mem_insert_fst m a b d hd with h3 | h3
      · omega
      · exact hlt d h3

theorem erase_wf (font : Font) (m : Memory) (a : Nat) (h : m.wf font = true) :
    Memory.wf font (Memory.erase a m) = true := by
  induction m with
  | nil => rfl
  | cons c m ih =>
    obtain ⟨k, c⟩ := c
    obtain ⟨hk, hc, hlt, hm⟩ := (wf_cons ..).1 h
    simp only [Memory.erase] at ih ⊢
    simp only [List.filter_cons]
    split_ifs
    · exact (wf_cons ..).2 ⟨hk, hc, fun d hd => hlt d (List.mem_of_mem_filter hd), ih hm⟩
    · exact ih hm

/-- Every write to an address of the machine keeps the canonical form. -/
theorem write_wf (font : Font) (m : Memory) (a : Nat) (b : Byte) (ha : a < 4096) (h : m.wf font = true) :
    (m.write font a b).wf font = true := by
  unfold Memory.write
  split_ifs with hb
  · exact erase_wf font m a h
  · exact insert_wf font m a b ha hb h

theorem setCell_wf (s : State) (a : Nat) (b : Byte) (ha : a < 4096) (h : s.mem.wf s.cfg.font = true) :
    (s.setCell a b).mem.wf (s.setCell a b).cfg.font = true := write_wf _ _ _ _ ha h

/-! ### Runs of cells -/

/-- A run of writes is one change of memory. -/
theorem setCells_eq (s : State) (a : Nat) (bs : List Byte) :
    s.setCells a bs = { s with mem := (s.setCells a bs).mem } := by
  induction bs generalizing s a with
  | nil => rfl
  | cons b bs ih => rw [State.setCells, ih]; rfl

theorem setCells_cell (s : State) (a : Nat) (bs : List Byte) (k : Nat) :
    (s.setCells a bs).cell k = if a ≤ k ∧ k < a + bs.length then bs.getD (k - a) 0 else s.cell k := by
  induction bs generalizing s a with
  | nil => simp [State.setCells]
  | cons b bs ih =>
    rw [State.setCells, ih, setCell_cell]
    by_cases h1 : k = a
    · subst h1; simp
    · by_cases h2 : a + 1 ≤ k ∧ k < a + 1 + bs.length
      · have h3 : a ≤ k ∧ k < a + (b :: bs).length := by simp only [List.length_cons]; omega
        obtain ⟨j, rfl⟩ : ∃ j, k = a + 1 + j := ⟨k - (a + 1), by omega⟩
        have e1 : a + 1 + j - (a + 1) = j := by omega
        have e2 : a + 1 + j - a = j + 1 := by omega
        rw [if_pos h2, if_pos h3, e1, e2]
        rfl
      · have h3 : ¬(a ≤ k ∧ k < a + (b :: bs).length) := by simp only [List.length_cons]; omega
        rw [if_neg h2, if_neg h1, if_neg h3]

/-- A run of writes leaves in each cell what `State.cellWith` says. -/
theorem setCells_cell_eq_cellWith (s : State) (a : Nat) (bs : List Byte) (k : Nat) :
    (s.setCells a bs).cell k = s.cellWith a bs k := setCells_cell s a bs k

theorem setCells_wf (s : State) (a : Nat) (bs : List Byte) (ha : a + bs.length ≤ 4096)
    (h : s.mem.wf s.cfg.font = true) : (s.setCells a bs).mem.wf s.cfg.font = true := by
  induction bs generalizing s a with
  | nil => exact h
  | cons b bs ih =>
    simp only [List.length_cons] at ha
    exact ih (s.setCell a b) (a + 1) (by omega) (setCell_wf s a b (by omega) h)

section
variable (s : State) (a : Nat) (bs : List Byte)
@[simp] theorem setCells_v : (s.setCells a bs).v = s.v := by rw [setCells_eq]
@[simp] theorem setCells_getV (r : RegIx) : (s.setCells a bs).getV r = s.getV r := by rw [setCells_eq]; rfl
@[simp] theorem setCells_i : (s.setCells a bs).i = s.i := by rw [setCells_eq]
@[simp] theorem setCells_pc : (s.setCells a bs).pc = s.pc := by rw [setCells_eq]
@[simp] theorem setCells_npc : (s.setCells a bs).npc = s.npc := by rw [setCells_eq]; rfl
@[simp] theorem setCells_stack : (s.setCells a bs).stack = s.stack := by rw [setCells_eq]
@[simp] theorem setCells_sp : (s.setCells a bs).sp = s.sp := by rw [setCells_eq]
@[simp] theorem setCells_dt : (s.setCells a bs).dt = s.dt := by rw [setCells_eq]
@[simp] theorem setCells_st : (s.setCells a bs).st = s.st := by rw [setCells_eq]
@[simp] theorem setCells_key : (s.setCells a bs).key = s.key := by rw [setCells_eq]
@[simp] theorem setCells_gfx : (s.setCells a bs).gfx = s.gfx := by rw [setCells_eq]
@[simp] theorem setCells_outcome : (s.setCells a bs).outcome = s.outcome := by rw [setCells_eq]
@[simp] theorem setCells_draws : (s.setCells a bs).draws = s.draws := by rw [setCells_eq]
@[simp] theorem setCells_cfg : (s.setCells a bs).cfg = s.cfg := by rw [setCells_eq]
end

/-- A run of reads raises iff one of its bytes lies outside memory (20_memory.md R38), and else reads each cell. -/
theorem memReadRun_eq (s : State) (a n : Nat) :
    s.memReadRun a n =
      if 0 < n ∧ a + n - 1 > 0xFFF then .error .memoryOutOfBounds
      else .ok ((List.range n).map fun k => s.cell (a + k)) := by
  induction n generalizing a with
  | zero => simp [State.memReadRun]
  | succ n ih =>
    rw [State.memReadRun, State.memRead, ih]
    by_cases h1 : a > 0xFFF
    · have h3 : 0 < n + 1 ∧ a + (n + 1) - 1 > 0xFFF := by omega
      rw [if_pos h1, if_pos h3]
    · by_cases h2 : 0 < n ∧ a + 1 + n - 1 > 0xFFF
      · have h3 : 0 < n + 1 ∧ a + (n + 1) - 1 > 0xFFF := by omega
        rw [if_neg h1, if_pos h2, if_pos h3]
      · have h3 : ¬(0 < n + 1 ∧ a + (n + 1) - 1 > 0xFFF) := by omega
        rw [if_neg h1, if_neg h2, if_neg h3]
        simp [List.range_succ_eq_map, Nat.add_assoc, Nat.add_comm 1]

/-- A run of writes raises iff one of its bytes lies outside memory (20_memory.md R38), and else writes each cell. -/
theorem memWriteRun_eq (s : State) (a : Nat) (bs : List Byte) :
    s.memWriteRun a bs =
      if 0 < bs.length ∧ a + bs.length - 1 > 0xFFF then .error .memoryOutOfBounds
      else .ok (s.setCells a bs) := by
  induction bs generalizing s a with
  | nil => simp [State.memWriteRun, State.setCells]
  | cons b bs ih =>
    rw [State.memWriteRun, State.memWrite]
    simp only [List.length_cons]
    by_cases h1 : a > 0xFFF
    · have h3 : 0 < bs.length + 1 ∧ a + (bs.length + 1) - 1 > 0xFFF := by omega
      rw [if_pos h1, if_pos h3]
    · rw [if_neg h1]
      dsimp only
      rw [ih]
      by_cases h2 : 0 < bs.length ∧ a + 1 + bs.length - 1 > 0xFFF
      · have h3 : 0 < bs.length + 1 ∧ a + (bs.length + 1) - 1 > 0xFFF := by omega
        rw [if_pos h2, if_pos h3]
      · have h3 : ¬(0 < bs.length + 1 ∧ a + (bs.length + 1) - 1 > 0xFFF) := by omega
        rw [if_neg h2, if_neg h3]
        rfl

/-- A word stored high byte first is what a fetch there reads (20_memory.md R33). -/
theorem storeWord_cell (s : State) (a : Nat) (w : Word) (k : Nat) :
    (s.storeWord a w).cell k =
      if k = a + 1 then w.extractLsb' 0 8 else if k = a then w.extractLsb' 8 8 else s.cell k := by
  simp [State.storeWord]

end Sys2Proof.Machine
end

