-- ==== Sys2Proof/Laws/Display.lean ====
section
/-! SUPPORT. The drawing loop of DXYN, pixel by pixel: what each level of the loop does to one pixel and to the
collision flag (43_display.md R91, R93). -/

namespace Sys2Proof.Machine

@[simp] theorem clear_get (y x : Nat) : Gfx.get Gfx.clear y x = false := by
  simp [Gfx.get, Gfx.clear]

theorem get_eq_getElem (g : Gfx) (y x : Nat) (hy : y < 32) (hx : x < 64) :
    Gfx.get g y x = g[y][x] := by simp [Gfx.get, hy, hx]

/-- Two buffers with the same pixels are the same buffer. -/
theorem gfx_ext (g h : Gfx) (hp : ∀ y x, y < 32 → x < 64 → Gfx.get g y x = Gfx.get h y x) : g = h := by
  apply Vector.ext
  intro y hy
  apply Vector.ext
  intro x hx
  have := hp y x hy hx
  rwa [get_eq_getElem _ _ _ hy hx, get_eq_getElem _ _ _ hy hx] at this

theorem toggle_get (g : Gfx) (y x y' x' : Nat) :
    Gfx.get (Gfx.toggle g y x) y' x' =
      if y' = y ∧ x' = x ∧ y < 32 ∧ x < 64 then !Gfx.get g y x else Gfx.get g y' x' := by
  by_cases h : y < 32 ∧ x < 64
  · by_cases h' : y' < 32 ∧ x' < 64
    · simp only [Gfx.get, Gfx.toggle, dif_pos h, dif_pos h', Vector.getElem_set]
      by_cases hy : y = y'
      · subst hy
        by_cases hx : x = x'
        · subst hx; simp [h.1, h.2]
        · simp [hx, Ne.symm hx]
      · simp [hy, Ne.symm hy]
    · have : ¬(y' = y ∧ x' = x ∧ y < 32 ∧ x < 64) := by omega
      simp only [Gfx.get, dif_neg h', if_neg this]
  · have : ¬(y' = y ∧ x' = x ∧ y < 32 ∧ x < 64) := by omega
    simp only [Gfx.toggle, dif_neg h, if_neg this]

/-- What the first `k` columns of a sprite row do to a pixel of the buffer: exclusive or with the row's bit there. -/
theorem drawColumns_get (x0 y0 row : Nat) (b : Byte) (d : Drawing) (k y x : Nat) (hy : y < 32) (hx : x < 64) :
    Gfx.get ((List.range k).foldl (drawPixel x0 y0 row b) d).gfx y x =
      (Gfx.get d.gfx y x ^^
        (decide (y = y0 + row ∧ x0 ≤ x ∧ x < x0 + k) && b.getLsbD (7 - (x - x0)))) := by
  induction k with
  | zero =>
    rw [decide_eq_false (p := y = y0 + row ∧ x0 ≤ x ∧ x < x0 + 0) (by omega)]
    simp
  | succ k ih =>
    rw [List.range_succ, List.foldl_append, List.foldl_cons, List.foldl_nil]
    generalize (List.range k).foldl (drawPixel x0 y0 row b) d = e at ih ⊢
    unfold drawPixel
    by_cases hx' : x = x0 + k
    · subst hx'
      have h0 : ¬(y = y0 + row ∧ x0 ≤ x0 + k ∧ x0 + k < x0 + k) := by omega
      have e1 : x0 + k - x0 = k := by omega
      simp only [h0, decide_false, Bool.false_and, Bool.xor_false] at ih
      by_cases hy' : y = y0 + row
      · subst hy'
        have h1 : y0 + row = y0 + row ∧ x0 ≤ x0 + k ∧ x0 + k < x0 + (k + 1) := by omega
        by_cases hb : b.getLsbD (7 - k) = true
        · have h2 : y0 + row ≤ 31 ∧ x0 + k ≤ 63 := by omega
          simp [hb, h2.1, h2.2, toggle_get, hy, hx, ih]
        · simp [hb, ih]
      · have h1 : ¬(y = y0 + row ∧ x0 ≤ x0 + k ∧ x0 + k < x0 + (k + 1)) := by omega
        simp only [h1, decide_false, Bool.false_and, Bool.xor_false]
        split_ifs
        · rw [toggle_get, if_neg (by omega), ih]
        · exact ih
    · have h1 : decide (y = y0 + row ∧ x0 ≤ x ∧ x < x0 + (k + 1)) =
            decide (y = y0 + row ∧ x0 ≤ x ∧ x < x0 + k) := by
          rw [decide_eq_decide]; omega
      rw [h1, ← ih]
      dsimp only
      split_ifs
      · rw [toggle_get, if_neg (by omega)]
      · rfl

/-- When the first `k` columns of a sprite row have collided: one of their bits met an on pixel of the buffer. -/
theorem drawColumns_hit (x0 y0 row : Nat) (b : Byte) (d : Drawing) (k : Nat) :
    ((List.range k).foldl (drawPixel x0 y0 row b) d).hit = true ↔
      d.hit = true ∨ ∃ y x, y < 32 ∧ x < 64 ∧ (y = y0 + row ∧ x0 ≤ x ∧ x < x0 + k) ∧
        b.getLsbD (7 - (x - x0)) = true ∧ Gfx.get d.gfx y x = true := by
  induction k with
  | zero =>
    simp only [List.range_zero, List.foldl_nil]
    constructor
    · exact Or.inl
    · rintro (h | ⟨y, x, -, -, ⟨-, h1, h2⟩, -⟩)
      · exact h
      · omega
  | succ k ih =>
    rw [List.range_succ, List.foldl_append, List.foldl_cons, List.foldl_nil]
    have hget := drawColumns_get x0 y0 row b d k (y0 + row) (x0 + k)
    generalize (List.range k).foldl (drawPixel x0 y0 row b) d = e at ih hget ⊢
    have hnew : Gfx.get e.gfx (y0 + row) (x0 + k) = Gfx.get d.gfx (y0 + row) (x0 + k) ∨
        ¬(y0 + row < 32 ∧ x0 + k < 64) := by
      by_cases h : y0 + row < 32 ∧ x0 + k < 64
      · left
        have := hget h.1 h.2
        rwa [decide_eq_false (by omega), Bool.false_and, Bool.xor_false] at this
      · exact Or.inr h
    have e1 : x0 + k - x0 = k := by omega
    unfold drawPixel
    dsimp only
    split_ifs with hc
    · obtain ⟨h1, h2, h3⟩ := hc
      rw [Bool.or_eq_true, ih]
      rcases hnew with hnew | hnew
      swap
      · omega
      constructor
      · rintro ((h | ⟨y, x, hy, hx, ⟨h4, h5, h6⟩, h7⟩) | h)
        · exact .inl h
        · exact .inr ⟨y, x, hy, hx, ⟨h4, h5, by omega⟩, h7⟩
        · exact .inr ⟨y0 + row, x0 + k, by omega, by omega, ⟨rfl, by omega, by omega⟩, by rwa [e1], by rwa [← hnew]⟩
      · rintro (h | ⟨y, x, hy, hx, ⟨h4, h5, h6⟩, h7, h8⟩)
        · exact .inl (.inl h)
        · by_cases hxk : x = x0 + k
          · subst hxk h4; exact .inr (by rwa [hnew])
          · exact .inl (.inr ⟨y, x, hy, hx, ⟨h4, h5, by omega⟩, h7, h8⟩)
    · rw [ih]
      constructor
      · rintro (h | ⟨y, x, hy, hx, ⟨h4, h5, h6⟩, h7⟩)
        · exact .inl h
        · exact .inr ⟨y, x, hy, hx, ⟨h4, h5, by omega⟩, h7⟩
      · rintro (h | ⟨y, x, hy, hx, ⟨h4, h5, h6⟩, h7, h8⟩)
        · exact .inl h
        · by_cases hxk : x = x0 + k
          · subst hxk h4
            rw [e1] at h7
            exact absurd ⟨by omega, by omega, h7⟩ hc
          · exact .inr ⟨y, x, hy, hx, ⟨h4, h5, by omega⟩, h7, h8⟩

/-- What the sprite's rows do to a pixel of the buffer: exclusive or with the sprite's bit there, once. -/
theorem drawRows_get (x0 y0 row : Nat) (bs : List Byte) (d : Drawing) (y x : Nat) (hy : y < 32) (hx : x < 64) :
    Gfx.get (drawRows x0 y0 row bs d).gfx y x =
      (Gfx.get d.gfx y x ^^
        (decide (y0 + row ≤ y ∧ y < y0 + row + bs.length ∧ x0 ≤ x ∧ x < x0 + 8) &&
          (bs.getD (y - (y0 + row)) 0).getLsbD (7 - (x - x0)))) := by
  induction bs generalizing row d with
  | nil =>
    have : ¬(y0 + row ≤ y ∧ y < y0 + row + ([] : List Byte).length ∧ x0 ≤ x ∧ x < x0 + 8) := by
      simp only [List.length_nil]; omega
    simp only [drawRows, this, decide_false, Bool.false_and, Bool.xor_false]
  | cons b bs ih =>
    rw [drawRows, ih, drawRow, drawColumns_get _ _ _ _ _ _ _ _ hy hx]
    simp only [List.length_cons]
    by_cases h1 : y = y0 + row
    · subst h1
      have h2 : ¬(y0 + (row + 1) ≤ y0 + row ∧ y0 + row < y0 + (row + 1) + bs.length ∧ x0 ≤ x ∧ x < x0 + 8) := by
        omega
      have h3 : decide (y0 + row = y0 + row ∧ x0 ≤ x ∧ x < x0 + 8) =
          decide (y0 + row ≤ y0 + row ∧ y0 + row < y0 + row + (bs.length + 1) ∧ x0 ≤ x ∧ x < x0 + 8) := by
        rw [decide_eq_decide]; omega
      rw [h3, decide_eq_false h2, Bool.false_and, Bool.xor_false, Nat.sub_self, List.getD_cons_zero]
    · have h2 : ¬(y = y0 + row ∧ x0 ≤ x ∧ x < x0 + 8) := by omega
      simp only [h2, decide_false, Bool.false_and, Bool.xor_false]
      by_cases h3 : y0 + (row + 1) ≤ y
      · have h4 : decide (y0 + row ≤ y ∧ y < y0 + row + (bs.length + 1) ∧ x0 ≤ x ∧ x < x0 + 8) =
            decide (y0 + (row + 1) ≤ y ∧ y < y0 + (row + 1) + bs.length ∧ x0 ≤ x ∧ x < x0 + 8) := by
          rw [decide_eq_decide]; omega
        have h5 : y - (y0 + row) = (y - (y0 + (row + 1))) + 1 := by omega
        rw [h4, h5, List.getD_cons_succ]
      · have h4 : ¬(y0 + (row + 1) ≤ y ∧ y < y0 + (row + 1) + bs.length ∧ x0 ≤ x ∧ x < x0 + 8) := by omega
        have h5 : ¬(y0 + row ≤ y ∧ y < y0 + row + (bs.length + 1) ∧ x0 ≤ x ∧ x < x0 + 8) := by omega
        simp only [h4, h5, decide_false, Bool.false_and]

/-- When the sprite's rows have collided: a bit of the sprite met a pixel that was on at the start (R93). -/
theorem drawRows_hit (x0 y0 row : Nat) (bs : List Byte) (d : Drawing) :
    (drawRows x0 y0 row bs d).hit = true ↔
      d.hit = true ∨ ∃ y x, y < 32 ∧ x < 64 ∧
        (y0 + row ≤ y ∧ y < y0 + row + bs.length ∧ x0 ≤ x ∧ x < x0 + 8) ∧
        (bs.getD (y - (y0 + row)) 0).getLsbD (7 - (x - x0)) = true ∧ Gfx.get d.gfx y x = true := by
  induction bs generalizing row d with
  | nil =>
    simp only [drawRows, List.length_nil]
    constructor
    · exact Or.inl
    · rintro (h | ⟨y, x, -, -, h, -⟩)
      · exact h
      · omega
  | cons b bs ih =>
    rw [drawRows, ih, drawRow, drawColumns_hit]
    simp only [List.length_cons]
    constructor
    · rintro ((h | ⟨y, x, hy, hx, ⟨h1, h2, h3⟩, h4, h5⟩) | ⟨y, x, hy, hx, ⟨h1, h2, h3, h3'⟩, h4, h5⟩)
      · exact .inl h
      · refine .inr ⟨y, x, hy, hx, ⟨by omega, by omega, h2, h3⟩, ?_, h5⟩
        rw [show y - (y0 + row) = 0 by omega]
        exact h4
      · refine .inr ⟨y, x, hy, hx, ⟨by omega, by omega, h3, h3'⟩, ?_, ?_⟩
        · rw [show y - (y0 + row) = (y - (y0 + (row + 1))) + 1 by omega]
          exact h4
        · rw [drawColumns_get _ _ _ _ _ _ _ _ hy hx] at h5
          have h6 : ¬(y = y0 + row ∧ x0 ≤ x ∧ x < x0 + 8) := by omega
          simpa only [h6, decide_false, Bool.false_and, Bool.xor_false] using h5
    · rintro (h | ⟨y, x, hy, hx, ⟨h1, h2, h3, h3'⟩, h4, h5⟩)
      · exact .inl (.inl h)
      · by_cases h6 : y = y0 + row
        · refine .inl (.inr ⟨y, x, hy, hx, ⟨h6, h3, h3'⟩, ?_, h5⟩)
          rw [show y - (y0 + row) = 0 by omega] at h4
          exact h4
        · refine .inr ⟨y, x, hy, hx, ⟨by omega, by omega, h3, h3'⟩, ?_, ?_⟩
          · rw [show y - (y0 + row) = (y - (y0 + (row + 1))) + 1 by omega] at h4
            exact h4
          · rw [drawColumns_get _ _ _ _ _ _ _ _ hy hx]
            have h7 : ¬(y = y0 + row ∧ x0 ≤ x ∧ x < x0 + 8) := by omega
            simpa only [h7, decide_false, Bool.false_and, Bool.xor_false] using h5

end Sys2Proof.Machine
end

