-- ==== Sys2Proof/Laws/Encoding.lean ====
section
/-! SUPPORT. Every field that an encoding format packs reads back (30_encoding.md R51, R52). -/

namespace Sys2Proof

/-! ### The bits of a packed word -/

theorem getLsbD_wordNNN (f : BitVec 4) (nnn : Addr) (j : Nat) :
    (wordNNN f nnn).getLsbD j = if j < 12 then nnn.getLsbD j else f.getLsbD (j - 12) :=
  BitVec.getLsbD_append

theorem getLsbD_wordXKK (f : BitVec 4) (x : RegIx) (kk : Byte) (j : Nat) :
    (wordXKK f x kk).getLsbD j =
      if j < 8 then kk.getLsbD j else if j < 12 then (nibble x).getLsbD (j - 8) else f.getLsbD (j - 12) := by
  have h : (wordXKK f x kk).getLsbD j =
      if j < 12 then (nibble x ++ kk).getLsbD j else f.getLsbD (j - 12) := BitVec.getLsbD_append
  rw [h, BitVec.getLsbD_append]
  split_ifs <;> first | rfl | omega

theorem getLsbD_wordXYN (f : BitVec 4) (x y n : Fin 16) (j : Nat) :
    (wordXYN f x y n).getLsbD j =
      if j < 4 then (nibble n).getLsbD j else if j < 8 then (nibble y).getLsbD (j - 4)
      else if j < 12 then (nibble x).getLsbD (j - 8) else f.getLsbD (j - 12) := by
  have h : (wordXYN f x y n).getLsbD j =
      if j < 12 then (nibble x ++ (nibble y ++ nibble n)).getLsbD j else f.getLsbD (j - 12) := BitVec.getLsbD_append
  have h1 : (nibble x ++ (nibble y ++ nibble n)).getLsbD j =
      if j < 8 then (nibble y ++ nibble n).getLsbD j else (nibble x).getLsbD (j - 8) := BitVec.getLsbD_append
  rw [h, h1, BitVec.getLsbD_append]
  split_ifs <;> first | rfl | omega

/-- Two values of one width agree if their bits do. -/
theorem eq_of_bits {w : Nat} {a b : BitVec w} (h : ∀ j, j < w → a.getLsbD j = b.getLsbD j) : a = b :=
  BitVec.eq_of_getLsbD_eq h

/-! ### Fields read back -/

section
variable (f : BitVec 4) (x y n : Fin 16) (kk : Byte) (nnn : Addr)

@[simp] theorem family_wordNNN : family (wordNNN f nnn) = f := eq_of_bits fun j hj => by
  simp [family, getLsbD_wordNNN, hj]

@[simp] theorem fieldNNN_wordNNN : fieldNNN (wordNNN f nnn) = nnn := eq_of_bits fun j hj => by
  simp [fieldNNN, getLsbD_wordNNN, hj]

@[simp] theorem family_wordXKK : family (wordXKK f x kk) = f := eq_of_bits fun j hj => by
  have h : ¬12 + j < 8 := by omega
  simp [family, getLsbD_wordXKK, hj, h]

@[simp] theorem fieldKK_wordXKK : fieldKK (wordXKK f x kk) = kk := eq_of_bits fun j hj => by
  simp [fieldKK, getLsbD_wordXKK, hj]

@[simp] theorem fieldX_wordXKK : fieldX (wordXKK f x kk) = x := by
  have h : (wordXKK f x kk).extractLsb' 8 4 = nibble x := eq_of_bits fun j hj => by
    have h : 8 + j < 12 := by omega
    simp [getLsbD_wordXKK, hj, h]
  rw [fieldX, h]; rfl

@[simp] theorem family_wordXYN : family (wordXYN f x y n) = f := eq_of_bits fun j hj => by
  have h1 : ¬12 + j < 4 := by omega
  have h2 : ¬12 + j < 8 := by omega
  simp [family, getLsbD_wordXYN, hj, h1, h2]

@[simp] theorem fieldX_wordXYN : fieldX (wordXYN f x y n) = x := by
  have h : (wordXYN f x y n).extractLsb' 8 4 = nibble x := eq_of_bits fun j hj => by
    have h1 : ¬8 + j < 4 := by omega
    have h2 : 8 + j < 12 := by omega
    simp [getLsbD_wordXYN, hj, h1, h2]
  rw [fieldX, h]; rfl

@[simp] theorem fieldY_wordXYN : fieldY (wordXYN f x y n) = y := by
  have h : (wordXYN f x y n).extractLsb' 4 4 = nibble y := eq_of_bits fun j hj => by
    have h1 : 4 + j < 8 := by omega
    simp [getLsbD_wordXYN, hj, h1]
  rw [fieldY, h]; rfl

@[simp] theorem fieldN_wordXYN : fieldN (wordXYN f x y n) = n := by
  have h : (wordXYN f x y n).extractLsb' 0 4 = nibble n := eq_of_bits fun j hj => by
    simp [getLsbD_wordXYN, hj]
  rw [fieldN, h]; rfl

end

/-! ### A word from its fields -/

theorem nibble_fieldX (op : Word) (j : Nat) : (nibble (fieldX op)).getLsbD j = (decide (j < 4) && op.getLsbD (8 + j)) :=
  BitVec.getLsbD_extractLsb' 8 4 op j

theorem nibble_fieldY (op : Word) (j : Nat) : (nibble (fieldY op)).getLsbD j = (decide (j < 4) && op.getLsbD (4 + j)) :=
  BitVec.getLsbD_extractLsb' 4 4 op j

theorem nibble_fieldN (op : Word) (j : Nat) : (nibble (fieldN op)).getLsbD j = (decide (j < 4) && op.getLsbD (0 + j)) :=
  BitVec.getLsbD_extractLsb' 0 4 op j

theorem eq_wordNNN (op : Word) : op = wordNNN (family op) (fieldNNN op) := eq_of_bits fun j hj => by
  rw [getLsbD_wordNNN, family, fieldNNN, BitVec.getLsbD_extractLsb', BitVec.getLsbD_extractLsb']
  split_ifs with h
  · simp [h]
  · have h1 : j - 12 < 4 := by omega
    have h2 : 12 + (j - 12) = j := by omega
    simp [h1, h2]

theorem eq_wordXKK (op : Word) : op = wordXKK (family op) (fieldX op) (fieldKK op) := eq_of_bits fun j hj => by
  rw [getLsbD_wordXKK, nibble_fieldX, family, fieldKK, BitVec.getLsbD_extractLsb', BitVec.getLsbD_extractLsb']
  split_ifs with h h'
  · simp [h]
  · have h1 : j - 8 < 4 := by omega
    have h2 : 8 + (j - 8) = j := by omega
    simp [h1, h2]
  · have h1 : j - 12 < 4 := by omega
    have h2 : 12 + (j - 12) = j := by omega
    simp [h1, h2]

theorem eq_wordXYN (op : Word) : op = wordXYN (family op) (fieldX op) (fieldY op) (fieldN op) :=
  eq_of_bits fun j hj => by
    rw [getLsbD_wordXYN, nibble_fieldX, nibble_fieldY, nibble_fieldN, family, BitVec.getLsbD_extractLsb']
    split_ifs with h h' h''
    · simp [h]
    · have h1 : j - 4 < 4 := by omega
      have h2 : 4 + (j - 4) = j := by omega
      simp [h1, h2]
    · have h1 : j - 8 < 4 := by omega
      have h2 : 8 + (j - 8) = j := by omega
      simp [h1, h2]
    · have h1 : j - 12 < 4 := by omega
      have h2 : 12 + (j - 12) = j := by omega
      simp [h1, h2]

/-! ### The fixed bits of a packed word (30_encoding.md R54) -/

section
variable (f : BitVec 4) (x y n : Fin 16) (kk : Byte) (nnn : Addr)

theorem wordNNN_and : wordNNN f nnn &&& 0xF000 = wordNNN f 0 := eq_of_bits fun j hj => by
  rw [BitVec.getLsbD_and, getLsbD_wordNNN, getLsbD_wordNNN]
  interval_cases j <;> simp

theorem wordXKK_and_family : wordXKK f x kk &&& 0xF000 = wordXKK f 0 0 := eq_of_bits fun j hj => by
  rw [BitVec.getLsbD_and, getLsbD_wordXKK, getLsbD_wordXKK]
  interval_cases j <;> simp [nibble]

theorem wordXKK_and : wordXKK f x kk &&& 0xF0FF = wordXKK f 0 kk := eq_of_bits fun j hj => by
  rw [BitVec.getLsbD_and, getLsbD_wordXKK, getLsbD_wordXKK]
  interval_cases j <;> simp [nibble]

theorem wordXYN_and_family : wordXYN f x y n &&& 0xF000 = wordXYN f 0 0 0 := eq_of_bits fun j hj => by
  rw [BitVec.getLsbD_and, getLsbD_wordXYN, getLsbD_wordXYN]
  interval_cases j <;> simp [nibble]

theorem wordXYN_and : wordXYN f x y n &&& 0xF00F = wordXYN f 0 0 n := eq_of_bits fun j hj => by
  rw [BitVec.getLsbD_and, getLsbD_wordXYN, getLsbD_wordXYN]
  interval_cases j <;> simp [nibble]

end

/-! ### Bytes and words (20_memory.md R33) -/

@[simp] theorem bytes_append (w : Word) : (w.extractLsb' 8 8 ++ w.extractLsb' 0 8 : Word) = w :=
  eq_of_bits fun j hj => by
    have h : (w.extractLsb' 8 8 ++ w.extractLsb' 0 8 : Word).getLsbD j =
        if j < 8 then (w.extractLsb' 0 8).getLsbD j else (w.extractLsb' 8 8).getLsbD (j - 8) := BitVec.getLsbD_append
    rw [h, BitVec.getLsbD_extractLsb', BitVec.getLsbD_extractLsb']
    split_ifs with h
    · simp [h]
    · have h1 : j - 8 < 8 := by omega
      have h2 : 8 + (j - 8) = j := by omega
      simp [h1, h2]

end Sys2Proof
end

