-- ==== Sys2Proof/Laws/Ops.lean ====
section
/-! SUPPORT. What the shared operations beside memory do: the stack, raising a fault, the operand forms. -/

namespace Sys2Proof.Machine

/-! ### The stack (10_state.md R15, R16) -/

theorem push_of_lt (s : State) (w : Word) (h : s.sp.val < 16) :
    s.push w = some { s with stack := s.stack.set s.sp.val w, sp := ⟨s.sp.val + 1, by omega⟩ } := by
  simp [State.push, h]

theorem push_of_full (s : State) (w : Word) (h : s.sp.val = 16) : s.push w = none := by
  simp [State.push, h]

/-- All a successful push can do. -/
theorem push_eq_some (s t : State) (w : Word) :
    s.push w = some t ↔
      ∃ h : s.sp.val < 16, t = { s with stack := s.stack.set s.sp.val w, sp := ⟨s.sp.val + 1, by omega⟩ } := by
  by_cases h : s.sp.val < 16 <;> simp [State.push, h, eq_comm]

theorem push_eq_none (s : State) (w : Word) : s.push w = none ↔ s.sp.val = 16 := by
  have := s.sp.isLt
  by_cases h : s.sp.val < 16
  · simp [State.push, h]; omega
  · simp [State.push, h]; omega

theorem pop_of_pos (s : State) (h : s.sp.val ≠ 0) :
    s.pop = some (s.stack[s.sp.val - 1]'(by omega), { s with sp := ⟨s.sp.val - 1, by omega⟩ }) := by
  simp [State.pop, h]

theorem pop_eq_none (s : State) : s.pop = none ↔ s.sp.val = 0 := by
  by_cases h : s.sp.val = 0 <;> simp [State.pop, h]

/-- All a successful pop can do. -/
theorem pop_eq_some (s t : State) (w : Word) :
    s.pop = some (w, t) ↔
      ∃ _ : s.sp.val ≠ 0, w = s.stack[s.sp.val - 1]'(by omega) ∧ t = { s with sp := ⟨s.sp.val - 1, by omega⟩ } := by
  by_cases h : s.sp.val = 0 <;> simp [State.pop, h, eq_comm]

/-! ### Raising a fault (60_exceptions.md R174, R171, R175) -/

/-- A raised fault leaves everything but `pc`, which is kept or moved past the instruction. -/
theorem raise_eq (s : State) (f : Fault) :
    s.raise f = { s with pc := s.faultPc f, outcome := .fault f } := rfl

theorem faultPc_cases (s : State) (f : Fault) : s.faultPc f = s.npc ∨ s.faultPc f = s.pc := by
  cases f <;> simp only [State.faultPc, true_or, or_true] <;> cases s.cfg.faultPc <;> simp

@[simp] theorem faultPc_fetch (s : State) : s.faultPc .programCounterOutOfBounds = s.pc := rfl
@[simp] theorem faultPc_decode (s : State) : s.faultPc .unrecognizedOpcode = s.npc := rfl

/-! ### The least pressed key (46_ext_keypad_timer_random.md R129) -/

theorem leastKey_eq_none (s : State) : s.leastKey = none ↔ ∀ k : Fin 16, s.key[k] = false := by
  simp [State.leastKey, List.find?_eq_none]

theorem leastKey_eq_some (s : State) (k : Fin 16) (h : s.leastKey = some k) :
    s.key[k] = true ∧ ∀ j : Fin 16, j < k → s.key[j] = false := by
  obtain ⟨hk, as, bs, hl, has⟩ := List.find?_eq_some_iff_append.1 h
  refine ⟨hk, fun j hj => ?_⟩
  have hsorted : (as ++ k :: bs).Pairwise (· < ·) := hl ▸ List.pairwise_lt_finRange 16
  have hmem : j ∈ as ++ k :: bs := hl ▸ List.mem_finRange j
  rcases List.mem_append.1 hmem with hj' | hj'
  · simpa using has j hj'
  · rcases List.mem_cons.1 hj' with rfl | hj'
    · exact absurd hj (lt_irrefl _)
    · exact absurd hj (not_lt.2 (le_of_lt ((List.pairwise_cons.1 (List.pairwise_append.1 hsorted).2.1).1 j hj')))

/-! ### V0..VX (47_ext_index_memory.md R138) -/

@[simp] theorem regsUpTo_length (s : State) (x : RegIx) : (s.regsUpTo x).length = x.val + 1 := by
  have := x.isLt
  simp only [State.regsUpTo, List.length_take, Vector.length_toList]
  omega

theorem regsUpTo_getD (s : State) (x r : RegIx) (h : r ≤ x) (b : Byte) :
    (s.regsUpTo x).getD r.val b = s.getV r := by
  have h1 : r.val < x.val + 1 := Nat.lt_succ_of_le h
  simp [State.regsUpTo, State.getV, List.getD, h1]

/-- The registers up to VX, in order. -/
theorem regsUpTo_eq_map (s : State) (x : RegIx) :
    s.regsUpTo x = ((List.finRange 16).filter (· ≤ x)).map s.getV := by
  have h : s.v.toList = (List.finRange 16).map s.getV := by
    apply List.ext_getElem
    · simp
    · intro k _ _
      simp [State.getV]
  have hf : (List.finRange 16).take (x.val + 1) = (List.finRange 16).filter (· ≤ x) := by
    revert x
    decide
  rw [State.regsUpTo, h, ← List.map_take, hf]

@[simp] theorem decimalDigits_length (b : Byte) : (decimalDigits b).length = 3 := rfl

end Sys2Proof.Machine
end

