-- ==== Sys2Proof/Laws/PerInstr.lean ====
section
/-! SUPPORT. Statements about every instruction as syntax, one lemma per constructor. -/

namespace Sys2Proof.Laws.FitsRow

/-- The instruction's row of 30_encoding.md R54 or R55. -/
def row : Instr → OpcodeRow
  | .cls => ⟨0xFFFF, 0x00E0, true⟩
  | .ret => ⟨0xFFFF, 0x00EE, true⟩
  | .jp _ => ⟨0xF000, 0x1000, true⟩
  | .call _ => ⟨0xF000, 0x2000, true⟩
  | .ldVxKk _ _ => ⟨0xF000, 0x6000, true⟩
  | .addVxKk _ _ => ⟨0xF000, 0x7000, true⟩
  | .ldINnn _ => ⟨0xF000, 0xA000, true⟩
  | .drw _ _ _ => ⟨0xF000, 0xD000, true⟩
  | .seVxKk _ _ => ⟨0xF000, 0x3000, false⟩
  | .sneVxKk _ _ => ⟨0xF000, 0x4000, false⟩
  | .seVxVy _ _ => ⟨0xF00F, 0x5000, false⟩
  | .ldVxVy _ _ => ⟨0xF00F, 0x8000, false⟩
  | .orVxVy _ _ => ⟨0xF00F, 0x8001, false⟩
  | .andVxVy _ _ => ⟨0xF00F, 0x8002, false⟩
  | .xorVxVy _ _ => ⟨0xF00F, 0x8003, false⟩
  | .addVxVy _ _ => ⟨0xF00F, 0x8004, false⟩
  | .subVxVy _ _ => ⟨0xF00F, 0x8005, false⟩
  | .shrVxVy _ _ => ⟨0xF00F, 0x8006, false⟩
  | .subnVxVy _ _ => ⟨0xF00F, 0x8007, false⟩
  | .shlVxVy _ _ => ⟨0xF00F, 0x800E, false⟩
  | .sneVxVy _ _ => ⟨0xF00F, 0x9000, false⟩
  | .jpV0Nnn _ => ⟨0xF000, 0xB000, false⟩
  | .rndVxKk _ _ => ⟨0xF000, 0xC000, false⟩
  | .skpVx _ => ⟨0xF0FF, 0xE09E, false⟩
  | .sknpVx _ => ⟨0xF0FF, 0xE0A1, false⟩
  | .ldVxDt _ => ⟨0xF0FF, 0xF007, false⟩
  | .ldVxK _ => ⟨0xF0FF, 0xF00A, false⟩
  | .ldDtVx _ => ⟨0xF0FF, 0xF015, false⟩
  | .ldStVx _ => ⟨0xF0FF, 0xF018, false⟩
  | .addIVx _ => ⟨0xF0FF, 0xF01E, false⟩
  | .ldFVx _ => ⟨0xF0FF, 0xF029, false⟩
  | .ldBVx _ => ⟨0xF0FF, 0xF033, false⟩
  | .ldMemVx _ => ⟨0xF0FF, 0xF055, false⟩
  | .ldVxMem _ => ⟨0xF0FF, 0xF065, false⟩

/-- The instruction's word has the fixed bits of its row, the row is one of the table's, and the instruction is one of
SOURCE8 iff its row is. -/
def Statement (i : Instr) : Prop :=
  row i ∈ opcodeRows ∧ (row i).admits (encode i) = true ∧ (row i).source8 = i.wellFormed .source8

theorem cls : Statement .cls :=
  ⟨by decide, by decide, rfl⟩

theorem ret : Statement .ret :=
  ⟨by decide, by decide, rfl⟩

theorem jp (nnn : Addr) : Statement (.jp nnn) :=
  ⟨by simp [row, opcodeRows], beq_iff_eq.2 ((wordNNN_and _ _).trans rfl), rfl⟩

theorem call (nnn : Addr) : Statement (.call nnn) :=
  ⟨by simp [row, opcodeRows], beq_iff_eq.2 ((wordNNN_and _ _).trans rfl), rfl⟩

theorem ldVxKk (x : RegIx) (kk : Byte) : Statement (.ldVxKk x kk) :=
  ⟨by simp [row, opcodeRows], beq_iff_eq.2 ((wordXKK_and_family _ _ _).trans rfl), rfl⟩

theorem addVxKk (x : RegIx) (kk : Byte) : Statement (.addVxKk x kk) :=
  ⟨by simp [row, opcodeRows], beq_iff_eq.2 ((wordXKK_and_family _ _ _).trans rfl), rfl⟩

theorem ldINnn (nnn : Addr) : Statement (.ldINnn nnn) :=
  ⟨by simp [row, opcodeRows], beq_iff_eq.2 ((wordNNN_and _ _).trans rfl), rfl⟩

theorem drw (x y : RegIx) (n : Count) : Statement (.drw x y n) :=
  ⟨by simp [row, opcodeRows], beq_iff_eq.2 ((wordXYN_and_family _ _ _ _).trans rfl), rfl⟩

theorem seVxKk (x : RegIx) (kk : Byte) : Statement (.seVxKk x kk) :=
  ⟨by simp [row, opcodeRows], beq_iff_eq.2 ((wordXKK_and_family _ _ _).trans rfl), rfl⟩

theorem sneVxKk (x : RegIx) (kk : Byte) : Statement (.sneVxKk x kk) :=
  ⟨by simp [row, opcodeRows], beq_iff_eq.2 ((wordXKK_and_family _ _ _).trans rfl), rfl⟩

theorem seVxVy (x y : RegIx) : Statement (.seVxVy x y) :=
  ⟨by simp [row, opcodeRows], beq_iff_eq.2 ((wordXYN_and _ _ _ _).trans rfl), rfl⟩

theorem ldVxVy (x y : RegIx) : Statement (.ldVxVy x y) :=
  ⟨by simp [row, opcodeRows], beq_iff_eq.2 ((wordXYN_and _ _ _ _).trans rfl), rfl⟩

theorem orVxVy (x y : RegIx) : Statement (.orVxVy x y) :=
  ⟨by simp [row, opcodeRows], beq_iff_eq.2 ((wordXYN_and _ _ _ _).trans rfl), rfl⟩

theorem andVxVy (x y : RegIx) : Statement (.andVxVy x y) :=
  ⟨by simp [row, opcodeRows], beq_iff_eq.2 ((wordXYN_and _ _ _ _).trans rfl), rfl⟩

theorem xorVxVy (x y : RegIx) : Statement (.xorVxVy x y) :=
  ⟨by simp [row, opcodeRows], beq_iff_eq.2 ((wordXYN_and _ _ _ _).trans rfl), rfl⟩

theorem addVxVy (x y : RegIx) : Statement (.addVxVy x y) :=
  ⟨by simp [row, opcodeRows], beq_iff_eq.2 ((wordXYN_and _ _ _ _).trans rfl), rfl⟩

theorem subVxVy (x y : RegIx) : Statement (.subVxVy x y) :=
  ⟨by simp [row, opcodeRows], beq_iff_eq.2 ((wordXYN_and _ _ _ _).trans rfl), rfl⟩

theorem shrVxVy (x y : RegIx) : Statement (.shrVxVy x y) :=
  ⟨by simp [row, opcodeRows], beq_iff_eq.2 ((wordXYN_and _ _ _ _).trans rfl), rfl⟩

theorem subnVxVy (x y : RegIx) : Statement (.subnVxVy x y) :=
  ⟨by simp [row, opcodeRows], beq_iff_eq.2 ((wordXYN_and _ _ _ _).trans rfl), rfl⟩

theorem shlVxVy (x y : RegIx) : Statement (.shlVxVy x y) :=
  ⟨by simp [row, opcodeRows], beq_iff_eq.2 ((wordXYN_and _ _ _ _).trans rfl), rfl⟩

theorem sneVxVy (x y : RegIx) : Statement (.sneVxVy x y) :=
  ⟨by simp [row, opcodeRows], beq_iff_eq.2 ((wordXYN_and _ _ _ _).trans rfl), rfl⟩

theorem jpV0Nnn (nnn : Addr) : Statement (.jpV0Nnn nnn) :=
  ⟨by simp [row, opcodeRows], beq_iff_eq.2 ((wordNNN_and _ _).trans rfl), rfl⟩

theorem rndVxKk (x : RegIx) (kk : Byte) : Statement (.rndVxKk x kk) :=
  ⟨by simp [row, opcodeRows], beq_iff_eq.2 ((wordXKK_and_family _ _ _).trans rfl), rfl⟩

theorem skpVx (x : RegIx) : Statement (.skpVx x) :=
  ⟨by simp [row, opcodeRows], beq_iff_eq.2 ((wordXKK_and _ _ _).trans rfl), rfl⟩

theorem sknpVx (x : RegIx) : Statement (.sknpVx x) :=
  ⟨by simp [row, opcodeRows], beq_iff_eq.2 ((wordXKK_and _ _ _).trans rfl), rfl⟩

theorem ldVxDt (x : RegIx) : Statement (.ldVxDt x) :=
  ⟨by simp [row, opcodeRows], beq_iff_eq.2 ((wordXKK_and _ _ _).trans rfl), rfl⟩

theorem ldVxK (x : RegIx) : Statement (.ldVxK x) :=
  ⟨by simp [row, opcodeRows], beq_iff_eq.2 ((wordXKK_and _ _ _).trans rfl), rfl⟩

theorem ldDtVx (x : RegIx) : Statement (.ldDtVx x) :=
  ⟨by simp [row, opcodeRows], beq_iff_eq.2 ((wordXKK_and _ _ _).trans rfl), rfl⟩

theorem ldStVx (x : RegIx) : Statement (.ldStVx x) :=
  ⟨by simp [row, opcodeRows], beq_iff_eq.2 ((wordXKK_and _ _ _).trans rfl), rfl⟩

theorem addIVx (x : RegIx) : Statement (.addIVx x) :=
  ⟨by simp [row, opcodeRows], beq_iff_eq.2 ((wordXKK_and _ _ _).trans rfl), rfl⟩

theorem ldFVx (x : RegIx) : Statement (.ldFVx x) :=
  ⟨by simp [row, opcodeRows], beq_iff_eq.2 ((wordXKK_and _ _ _).trans rfl), rfl⟩

theorem ldBVx (x : RegIx) : Statement (.ldBVx x) :=
  ⟨by simp [row, opcodeRows], beq_iff_eq.2 ((wordXKK_and _ _ _).trans rfl), rfl⟩

theorem ldMemVx (x : RegIx) : Statement (.ldMemVx x) :=
  ⟨by simp [row, opcodeRows], beq_iff_eq.2 ((wordXKK_and _ _ _).trans rfl), rfl⟩

theorem ldVxMem (x : RegIx) : Statement (.ldVxMem x) :=
  ⟨by simp [row, opcodeRows], beq_iff_eq.2 ((wordXKK_and _ _ _).trans rfl), rfl⟩

end Sys2Proof.Laws.FitsRow
end

