-- ==== Sys2Proof/Tests/Slice0.lean ====
section
/-! SUPPORT. The model's own tests. Words and expected values are from the encodings of 30_encoding.md R52, R54, R55
and from spec/95_test_vectors.md, whose vector each test names; what is not named was worked out from the instruction's
rule by hand. After them, a witness for every statement that has hypotheses. -/

set_option maxRecDepth 8000

namespace Sys2Proof.Tests

open Sys2Proof.Machine

/-! ## Helpers -/

/-- The machine after reset with `v` in `V[x]`. -/
def withV (x : RegIx) (v : Byte) : State := State.reset.setV x v

/-- The machine after reset with `a` in V1 and `b` in V2, and VF = 0x55: the start of section 2.7. -/
def alu (a b : Byte) : State := ((State.reset.setV 1 a).setV 2 b).setV vF 0x55

/-- The same machine with the other value of every parameter but the profile. -/
def otherChoices (s : State) : State :=
  { s with cfg := { s.cfg with faultPc := .hold, shiftSrc := .vx, logicVfReset := false, memIIncrement := false } }

/-- The same machine in SOURCE8. -/
def source8 (s : State) : State := { s with cfg := { s.cfg with profile := .source8 } }

/-- The machine after reset with `I` at 0x300 and the bytes `bs` there. -/
def data (bs : List Byte) : State := (State.reset.setCells 0x300 bs).setI 0x300

/-- What holds after one step from `s` with the word `w` placed at `pc`. -/
def after (s : State) (w : Nat) (p : State → Bool) : Bool :=
  match step (s.withFetchWord 16 w) with
  | .next t => p t
  | .fault _ | .refused _ => false

/-- As `after`, for a step that returns Ok and leaves `pc` at `pc`. -/
def afterOk (s : State) (w : Nat) (pc : Word) (p : State → Bool) : Bool :=
  after s w fun t => t.outcome = .ok && t.pc = pc && p t

/-- What holds after a schedule of commands, and of its responses. -/
def afterAll (cs : List Command) (p : State → List Response → Bool) : Bool :=
  match runSchedule cs (.powerOn defaultConfig) with
  | .next (.running s, rs) => p s rs
  | .next (.powerOn _, _) | .fault _ | .refused _ => false

/-! ## WellFormed: a term of the FULL profile is refused in SOURCE8, and the eight of R54 are not -/

theorem test_wellFormed_refuses_alu_in_source8 : (Instr.addVxVy 1 2).wellFormed .source8 = false := by decide
theorem test_wellFormed_refuses_last_row_in_source8 : (Instr.ldVxMem 0xF).wellFormed .source8 = false := by decide
theorem test_wellFormed_admits_drw_in_source8 : (Instr.drw 0xF 0xF 0xF).wellFormed .source8 = true := by decide

/-! ## Decoding: a word written out for every row -/

theorem test_decode_control :
    decodeTableWord 16 0b0000000011101110 = some .ret ∧ decodeTableWord 16 0b0001001101000101 = some (.jp 0x345) ∧
    decodeTableWord 16 0b0010101010111100 = some (.call 0xABC) := by decide

theorem test_decode_load_add :
    decodeTableWord 16 0b0110101000101011 = some (.ldVxKk 0xA 0x2B) ∧
    decodeTableWord 16 0b0111001100000101 = some (.addVxKk 3 0x05) ∧
    decodeTableWord 16 0b1010001000001100 = some (.ldINnn 0x20C) := by decide

theorem test_decode_display :
    decodeTableWord 16 0b0000000011100000 = some .cls ∧
    decodeTableWord 16 0b1101000100100101 = some (.drw 1 2 5) := by decide

theorem test_decode_skip_jump :
    decodeTableWord 16 0b0011000100110011 = some (.seVxKk 1 0x33) ∧
    decodeTableWord 16 0b0100000100110100 = some (.sneVxKk 1 0x34) ∧
    decodeTableWord 16 0b0101000100100000 = some (.seVxVy 1 2) ∧
    decodeTableWord 16 0b1001000100100000 = some (.sneVxVy 1 2) ∧
    decodeTableWord 16 0b1011001100000000 = some (.jpV0Nnn 0x300) := by decide

theorem test_decode_alu :
    decodeTableWord 16 0b1000000100100000 = some (.ldVxVy 1 2) ∧ decodeTableWord 16 0b1000000100100001 = some (.orVxVy 1 2) ∧
    decodeTableWord 16 0b1000000100100010 = some (.andVxVy 1 2) ∧ decodeTableWord 16 0b1000000100100011 = some (.xorVxVy 1 2) ∧
    decodeTableWord 16 0b1000000100100100 = some (.addVxVy 1 2) ∧ decodeTableWord 16 0b1000000100100101 = some (.subVxVy 1 2) ∧
    decodeTableWord 16 0b1000000100100110 = some (.shrVxVy 1 2) ∧ decodeTableWord 16 0b1000000100100111 = some (.subnVxVy 1 2) ∧
    decodeTableWord 16 0b1000000100101110 = some (.shlVxVy 1 2) := by decide

theorem test_decode_random_key_timer :
    decodeTableWord 16 0b1100001100001111 = some (.rndVxKk 3 0x0F) ∧ decodeTableWord 16 0b1110010010011110 = some (.skpVx 4) ∧
    decodeTableWord 16 0b1110010010100001 = some (.sknpVx 4) ∧ decodeTableWord 16 0b1111010100000111 = some (.ldVxDt 5) ∧
    decodeTableWord 16 0b1111001100001010 = some (.ldVxK 3) ∧ decodeTableWord 16 0b1111010100010101 = some (.ldDtVx 5) ∧
    decodeTableWord 16 0b1111010100011000 = some (.ldStVx 5) := by decide

theorem test_decode_index_memory :
    decodeTableWord 16 0b1111000100011110 = some (.addIVx 1) ∧ decodeTableWord 16 0b1111001000101001 = some (.ldFVx 2) ∧
    decodeTableWord 16 0b1111000100110011 = some (.ldBVx 1) ∧ decodeTableWord 16 0b1111001001010101 = some (.ldMemVx 2) ∧
    decodeTableWord 16 0b1111001001100101 = some (.ldVxMem 2) := by decide

/-- U2, U4. -/
theorem test_decode_rejects :
    [0x0000, 0x00E1, 0x00EF, 0x0123, 0x5121, 0x9123, 0x8128, 0x812F, 0xE19F, 0xE1A2, 0xF156, 0xF100, 0xF1FF].all
      (fun w => decode .full w == .error .unrecognizedOpcode) = true := by decide

/-- U3. -/
theorem test_decode_rejects_in_source8 :
    [0x3000, 0x8124, 0xF133, 0xC0FF, 0xE19E].all (fun w => decode .source8 w == .error .unrecognizedOpcode) = true := by
  decide

/-! ## Control flow -/

/-- CF1: a self-jump changes no state at all. -/
theorem test_jp_self : afterOk State.reset 0x1200 0x200 (fun t => t = State.reset.withFetchWord 16 0x1200) = true := by
  decide
/-- S4. -/
theorem test_jp : afterOk State.reset 0x1345 0x345 (fun _ => true) = true := by decide
/-- CF5. -/
theorem test_call : afterOk State.reset 0x2ABC 0xABC (fun t => t.stack[0] = 0x202 && t.sp = 1) = true := by decide
/-- CF7 (HOLD). -/
theorem test_call_overflow_hold :
    after (otherChoices { State.reset with sp := 16 }) 0x2ABC
      (fun t => t.outcome = .fault .stackOverflow && t.pc = 0x200 && t.sp = 16 && t.stack = State.reset.stack) = true := by
  decide
/-- CF9. -/
theorem test_ret :
    afterOk { State.reset with sp := 2, stack := (State.reset.stack.set 0 0x202).set 1 0x306 } 0x00EE 0x306
      (fun t => t.sp = 1 && t.stack[1] = 0x306) = true := by decide
/-- CF8. -/
theorem test_ret_underflow :
    after State.reset 0x00EE (fun t => t.outcome = .fault .stackUnderflow && t.pc = 0x202 && t.sp = 0) = true := by decide

/-! ## Immediate load and add -/

/-- LA1. -/
theorem test_ldVxKk : afterOk State.reset 0x6A2B 0x202 (fun t => t.getV 0xA = 0x2B) = true := by decide
/-- LA4. -/
theorem test_addVxKk_wraps :
    afterOk ((withV 3 0xFF).setV vF 7) 0x7301 0x202 (fun t => t.getV 3 = 0 && t.getV vF = 7) = true := by decide
/-- LA7. -/
theorem test_addVxKk_on_vF : afterOk (withV vF 1) 0x7F01 0x202 (fun t => t.getV vF = 2) = true := by decide
/-- LA10. -/
theorem test_ldINnn_clears_high_bits : afterOk (State.reset.setI 0x1234) 0xA000 0x202 (fun t => t.i = 0) = true := by decide

/-! ## Display -/

/-- DR1. -/
theorem test_cls :
    afterOk ((withV vF 7).setGfx (Gfx.toggle Gfx.clear 31 63)) 0x00E0 0x202
      (fun t => t.gfx = Gfx.clear && t.getV vF = 7) = true := by decide
/-- DR4: one pixel turned off, its neighbour on. -/
theorem test_drw_collision :
    afterOk ((data [0xC0]).setGfx (Gfx.toggle Gfx.clear 0 0)) 0xD011 0x202
      (fun t => t.gfx = Gfx.toggle Gfx.clear 0 1 && t.getV vF = 1) = true := by decide
/-- P3 (S8, S12): the origin wraps to column 60, row 31, and all beyond the edges is clipped. -/
theorem test_drw_wraps_and_clips :
    afterOk (((data [0xFF, 0xFF]).setV 0 0x7C).setV 1 0x3F) 0xD012 0x202
      (fun t => t.gfx = (((Gfx.clear.toggle 31 60).toggle 31 61).toggle 31 62).toggle 31 63 && t.getV vF = 0) = true := by
  decide
/-- DR12: a run that leaves memory draws nothing. -/
theorem test_drw_out_of_memory :
    after ((withV vF 9).setI 0xFFF) 0xD012
      (fun t => t.outcome = .fault .memoryOutOfBounds && t.gfx = Gfx.clear && t.getV vF = 9 && t.pc = 0x202) = true := by
  decide

/-! ## Skips and BNNN -/

/-- SK1, SK2. -/
theorem test_seVxKk :
    (afterOk (withV 1 0x33) 0x3133 0x204 (fun _ => true) && afterOk (withV 1 0x33) 0x3134 0x202 (fun _ => true)) = true := by
  decide
/-- SK3, SK4. -/
theorem test_sneVxKk :
    (afterOk (withV 1 0x33) 0x4133 0x202 (fun _ => true) && afterOk (withV 1 0x33) 0x4134 0x204 (fun _ => true)) = true := by
  decide
/-- SK5, SK6. -/
theorem test_seVxVy :
    (afterOk (alu 7 7) 0x5120 0x204 (fun _ => true) && afterOk (alu 7 8) 0x5120 0x202 (fun _ => true)) = true := by decide
/-- SK8, SK9. -/
theorem test_sneVxVy :
    (afterOk (alu 7 8) 0x9120 0x204 (fun _ => true) && afterOk (alu 7 8) 0x9110 0x202 (fun _ => true)) = true := by decide
/-- SK12, SK13. -/
theorem test_jpV0Nnn :
    (afterOk (withV 0 0xFF) 0xBFFF 0x10FE (fun _ => true) && afterOk (withV 3 0x10) 0xB300 0x300 (fun _ => true)) = true := by
  decide

/-! ## ALU -/

/-- AL1. -/
theorem test_ldVxVy : afterOk (alu 0x11 0x5A) 0x8120 0x202 (fun t => t.getV 1 = 0x5A && t.getV vF = 0x55) = true := by
  decide
/-- AL2. -/
theorem test_orVxVy : afterOk (alu 0x0F 0xF0) 0x8121 0x202 (fun t => t.getV 1 = 0xFF && t.getV vF = 0) = true := by decide
/-- AL3, with the other value of Q_LOGIC_VF_RESET. -/
theorem test_andVxVy_keeps_vF :
    afterOk (otherChoices (alu 0x3C 0x0F)) 0x8122 0x202 (fun t => t.getV 1 = 0x0C && t.getV vF = 0x55) = true := by decide
/-- AL4. -/
theorem test_xorVxVy : afterOk (alu 0xFF 0x0F) 0x8123 0x202 (fun t => t.getV 1 = 0xF0 && t.getV vF = 0) = true := by decide
/-- AL5. -/
theorem test_addVxVy : afterOk (alu 0xC8 0x64) 0x8124 0x202 (fun t => t.getV 1 = 0x2C && t.getV vF = 1) = true := by decide
/-- AF2: the flag is what VF holds, and the result is lost. -/
theorem test_addVxVy_to_vF :
    afterOk ((withV vF 0x10).setV 2 0x20) 0x8F24 0x202 (fun t => t.getV vF = 0) = true := by decide
/-- AL10, AL11. -/
theorem test_subVxVy :
    (afterOk (alu 3 5) 0x8125 0x202 (fun t => t.getV 1 = 0xFE && t.getV vF = 0) &&
     afterOk (alu 5 5) 0x8125 0x202 (fun t => t.getV 1 = 0 && t.getV vF = 1)) = true := by decide
/-- AL13, both values of Q_SHIFT_SRC. -/
theorem test_shrVxVy :
    (afterOk (alu 0xF0 0x05) 0x8126 0x202 (fun t => t.getV 1 = 0x02 && t.getV vF = 1 && t.getV 2 = 0x05) &&
     afterOk (otherChoices (alu 0xF0 0x05)) 0x8126 0x202 (fun t => t.getV 1 = 0x78 && t.getV vF = 0)) = true := by decide
/-- AL15, AL16. -/
theorem test_subnVxVy :
    (afterOk (alu 5 3) 0x8127 0x202 (fun t => t.getV 1 = 0xFE && t.getV vF = 0) &&
     afterOk (alu 3 5) 0x8127 0x202 (fun t => t.getV 1 = 0x02 && t.getV vF = 1)) = true := by decide
/-- AL19, both values of Q_SHIFT_SRC. -/
theorem test_shlVxVy :
    (afterOk (alu 0xFF 0x40) 0x812E 0x202 (fun t => t.getV 1 = 0x80 && t.getV vF = 0) &&
     afterOk (otherChoices (alu 0xFF 0x40)) 0x812E 0x202 (fun t => t.getV 1 = 0xFE && t.getV vF = 1)) = true := by decide

/-! ## Random, keys, timers -/

/-- RK2: with mask 0 the random byte does not matter. -/
theorem test_rndVxKk_mask_zero :
    step ((withV 3 9).withFetchWord 16 0xC300) =
      .next (((withV 3 9).withFetchWord 16 0xC300).drawn.setV 3 (Config.rnd 0 &&& 0)).advance := by rfl
/-- RK8 (low nibble), RK5. -/
theorem test_skpVx :
    (afterOk ((withV 4 0x1A).setKey 0xA true) 0xE49E 0x204 (fun _ => true) &&
     afterOk (withV 4 0x05) 0xE49E 0x202 (fun _ => true)) = true := by decide
/-- RK6, RK7. -/
theorem test_sknpVx :
    (afterOk ((withV 4 0x05).setKey 5 true) 0xE4A1 0x202 (fun _ => true) &&
     afterOk (withV 4 0x05) 0xE4A1 0x204 (fun _ => true)) = true := by decide
/-- RK9. -/
theorem test_ldVxDt : afterOk (State.reset.setDt 0x3C) 0xF507 0x202 (fun t => t.getV 5 = 0x3C && t.dt = 0x3C) = true := by
  decide
/-- RK10, RK11. -/
theorem test_ldVxK :
    (afterOk (withV 3 9) 0xF30A 0x200 (fun t => t.getV 3 = 9) &&
     afterOk ((State.reset.setKey 9 true).setKey 7 true) 0xF30A 0x202 (fun t => t.getV 3 = 7)) = true := by decide
/-- RK13. -/
theorem test_ldDtVx : afterOk (withV 5 0x3C) 0xF515 0x202 (fun t => t.dt = 0x3C && t.st = 0) = true := by decide
/-- RK14. -/
theorem test_ldStVx : afterOk (withV 5 0x0A) 0xF518 0x202 (fun t => t.st = 0x0A && t.dt = 0) = true := by decide

/-! ## Index and memory -/

/-- IM1. -/
theorem test_addIVx :
    afterOk ((withV 1 0x05).setI 0x0FFE) 0xF11E 0x202 (fun t => t.i = 0x1003 && t.getV vF = 0) = true := by decide
/-- IM6 (low nibble). -/
theorem test_ldFVx : afterOk (withV 2 0x1F) 0xF229 0x202 (fun t => t.i = 0x09B) = true := by decide
/-- IM7. -/
theorem test_ldBVx :
    afterOk ((withV 1 0xFF).setI 0x300) 0xF133 0x202
      (fun t => t.cell 0x300 = 2 && t.cell 0x301 = 5 && t.cell 0x302 = 5 && t.cell 0x303 = 0) = true := by decide
/-- IM12. -/
theorem test_ldBVx_out_of_memory :
    after ((withV 1 0xFF).setI 0xFFE) 0xF133
      (fun t => t.outcome = .fault .memoryOutOfBounds && t.cell 0xFFE = 0 && t.cell 0xFFF = 0 && t.pc = 0x202) = true := by
  decide
/-- IM13, the other value of Q_MEM_I_INCREMENT in IM14. -/
theorem test_ldMemVx :
    (afterOk ((((withV 0 0x11).setV 1 0x22).setV 2 0x33).setI 0x400) 0xF255 0x202
      (fun t => t.cell 0x400 = 0x11 && t.cell 0x401 = 0x22 && t.cell 0x402 = 0x33 && t.cell 0x403 = 0 && t.i = 0x403) &&
     afterOk (otherChoices ((withV 0 0x99).setI 0x400)) 0xF055 0x202
      (fun t => t.cell 0x400 = 0x99 && t.i = 0x400)) = true := by decide
/-- IM16. -/
theorem test_ldMemVx_out_of_memory :
    after ((withV 0 0x99).setI 0xFF1) 0xFF55
      (fun t => t.outcome = .fault .memoryOutOfBounds && t.cell 0xFF1 = 0 && t.i = 0xFF1) = true := by decide
/-- IM17. -/
theorem test_ldVxMem :
    afterOk ((data [0, 1, 5]).setV 3 7) 0xF265 0x202
      (fun t => t.getV 0 = 0 && t.getV 1 = 1 && t.getV 2 = 5 && t.getV 3 = 7 && t.i = 0x303) = true := by decide
/-- IM18: the fontset is there after reset. -/
theorem test_ldVxMem_reads_fontset :
    afterOk (State.reset.setI 0x050) 0xF465 0x202
      (fun t => t.getV 0 = 0xF0 && t.getV 1 = 0x90 && t.getV 4 = 0xF0 && t.getV 5 = 0 && t.i = 0x055) = true := by decide

/-! ## The step -/

/-- B1: the last pair of cells can be fetched. -/
theorem test_step_last_pair :
    afterOk { State.reset with pc := 0xFFE } 0x6A05 0x1000 (fun t => t.getV 0xA = 5) = true := by decide
/-- B3. -/
theorem test_step_pc_out_of_bounds :
    step { State.reset with pc := 0xFFF } =
      .next { State.reset with pc := 0xFFF, outcome := .fault .programCounterOutOfBounds } := by rfl
/-- U1, S9: an empty program. -/
theorem test_step_unrecognized :
    step State.reset = .next { State.reset with pc := 0x202, outcome := .fault .unrecognizedOpcode } := by rfl
/-- O1, O2: an odd `pc`. -/
theorem test_step_odd_pc :
    afterAll [.reset, .load [0x12, 0x03, 0x00, 0x6A, 0x05, 0x12, 0x05], .step, .step]
      (fun s _ => s.getV 0xA = 5 && s.pc = 0x205) = true := by decide

/-! ## Host commands -/

/-- T3, and the floor of T2. -/
theorem test_tickTimers :
    (State.tickTimers { State.reset with dt := 255, st := 3 } = { State.reset with dt := 254, st := 2 }) ∧
    (State.tickTimers { State.reset with dt := 1 } = State.reset) := by decide
/-- K1, K2. -/
theorem test_setKey :
    afterAll [.reset, .setKey 0xA true, .getKeys, .setKey 0xA false]
      (fun s rs => s.key = State.reset.key && rs[2]? = some (.keys (State.reset.setKey 0xA true).key)) = true := by decide
/-- H4: a load leaves the cells after it alone. -/
theorem test_load :
    afterAll [.reset, .load [0x12, 0x00, 0xAB], .load [0x34]]
      (fun s rs => s.cell 0x200 = 0x34 && s.cell 0x201 = 0 && s.cell 0x202 = 0xAB && rs[2]? = some (.loaded .ok)) = true := by
  decide
/-- H3: a load of 3585 bytes writes nothing. -/
theorem test_load_too_large : State.reset.load (List.replicate 3585 0xCD) = (State.reset, .romTooLarge) := by
  rw [State.load, List.length_replicate]
  rfl
/-- G1. -/
theorem test_getSoundTimer :
    issue .getSoundTimer (.running { State.reset with st := 7 }) =
      .next (.running { State.reset with st := 7 }, .soundTimer 7) := by rfl
/-- G3: pixel (3, 2) at position 131, and not its transpose. -/
theorem test_pixelBuffer_order :
    (State.reset.setGfx (Gfx.toggle Gfx.clear 2 3)).pixelBuffer[131] = true ∧
    (State.reset.setGfx (Gfx.toggle Gfx.clear 2 3)).pixelBuffer[194] = false := by
  simp only [State.pixelBuffer, Vector.getElem_ofFn]
  decide
/-- The codes of R170. -/
theorem test_outcome_codes :
    ([StepOutcome.ok, .fault .unrecognizedOpcode, .fault .stackOverflow, .fault .stackUnderflow,
      .fault .programCounterOutOfBounds, .fault .memoryOutOfBounds].map StepOutcome.code = [0, 1, 2, 3, 4, 6]) ∧
    LoadOutcome.code .romTooLarge = 5 := by decide
/-- D12. -/
theorem test_step_before_reset : issue .step (.powerOn defaultConfig) = .refused .commandBeforeReset := by rfl

/-! ## Witnesses: concrete states and operands that meet the hypotheses of each statement, at the edges of their ranges -/

/-- The machine with `pc` at 4094 and the word `w` there. -/
def lastPair (w : Nat) : State := { State.reset with pc := 0xFFE }.withFetchWord 16 w

theorem witness_ResetIsTotalAndIdempotent :
    (Device.powerOn defaultConfig).cfg = (Device.running (lastPair 0x6A05)).cfg := by rfl

theorem witness_StepKeepsInvariant :
    Inv (lastPair 0x6A05) ∧ step (lastPair 0x6A05) = .next ((lastPair 0x6A05).setV 0xA 5).advance :=
  ⟨⟨by decide, by decide, by decide⟩, by rfl⟩

theorem witness_StepKeepsInvariant_with_a_full_stack :
    Inv { State.reset with sp := 16, stack := Vector.replicate 16 4096, pc := 0x10FE } :=
  ⟨by decide, by decide, by decide⟩

theorem witness_EveryScheduleKeepsInvariant :
    Device.Inv (.powerOn defaultConfig) ∧
    runSchedule [.reset, .step] (.powerOn defaultConfig) =
      .next (.running (State.reset.raise .unrecognizedOpcode), [.nothing, .stepped (.fault .unrecognizedOpcode)]) :=
  ⟨trivial, by rfl⟩

theorem witness_DecodeOfEncode :
    (Instr.call 0xFFF).wellFormed .source8 = true ∧ (Instr.rndVxKk 0xF 0xFF).wellFormed .full = true := by decide

theorem witness_EncodeOfDecode :
    decode .source8 0xDFFF = .ok (.drw 0xF 0xF 0xF) ∧ decode .full 0xFF65 = .ok (.ldVxMem 0xF) := by decide

theorem witness_DecoderFollowsOpcodeTable :
    (⟨0xF00F, 0x8004, false⟩ : OpcodeRow) ∈ opcodeRows ∧ (0x8124 : Word) &&& 0xF00F = 0x8004 := by decide

theorem witness_StepRunsDecodedInstruction :
    (lastPair 0x1234).pc.toNat ≤ 4094 ∧
    decodeBytes (lastPair 0x1234).cfg.profile
      [(lastPair 0x1234).cell (lastPair 0x1234).pc.toNat, (lastPair 0x1234).cell ((lastPair 0x1234).pc.toNat + 1)] =
        .ok (.jp 0x234, []) := by decide

theorem witness_FetchBoundAndByteOrder_out : (4095 : Word).toNat ≥ 4095 ∧ (0xFFFF : Word).toNat ≥ 4095 := by decide

theorem witness_FetchBoundAndByteOrder_in :
    (lastPair 0xA20C).pc.toNat ≤ 4094 ∧
    (0xA20C : Word).toNat = ((lastPair 0xA20C).cell 0xFFE).toNat * 256 + ((lastPair 0xA20C).cell 0xFFF).toNat ∧
    decode (lastPair 0xA20C).cfg.profile 0xA20C = .ok (.ldINnn 0x20C) := by decide

theorem witness_UnrecognizedOpcodeIsPassedOver :
    (lastPair 0x5121).pc.toNat ≤ 4094 ∧
    (0x5121 : Word).toNat = ((lastPair 0x5121).cell 0xFFE).toNat * 256 + ((lastPair 0x5121).cell 0xFFF).toNat ∧
    decode (lastPair 0x5121).cfg.profile 0x5121 = .error .unrecognizedOpcode := by decide

/-- Each outcome of R170 that a step can return is returned from some state. -/
theorem witness_OutcomeIsTheFirstFaultFound :
    (after { State.reset with pc := 0xFFE } 0x6A05 (fun t => t.outcome = .ok) = true) ∧
    (step { State.reset with pc := 0xFFF } = .next (State.raise { State.reset with pc := 0xFFF } .programCounterOutOfBounds)) ∧
    (after State.reset 0x5121 (fun t => t.outcome = .fault .unrecognizedOpcode) = true) ∧
    (after { State.reset with sp := 16 } 0x2200 (fun t => t.outcome = .fault .stackOverflow) = true) ∧
    (after { State.reset with sp := 0 } 0x00EE (fun t => t.outcome = .fault .stackUnderflow) = true) ∧
    (after (State.reset.setI 0xFFF) 0xD002 (fun t => t.outcome = .fault .memoryOutOfBounds) = true) :=
  ⟨by decide, by rfl, by decide, by decide, by decide, by decide⟩

/-- An execute-stage fault at each value of FAULT_PC (CF8), and the two earlier stages. -/
theorem witness_FaultsArePrecise :
    (after State.reset 0x00EE (fun t => t.outcome = .fault .stackUnderflow) = true) ∧
    (after (otherChoices State.reset) 0x00EE (fun t => t.outcome = .fault .stackUnderflow && t.pc = 0x200) = true) ∧
    (step State.reset = .next (State.reset.raise .unrecognizedOpcode)) ∧
    (step { State.reset with pc := 0xFFFF } = .next (State.raise { State.reset with pc := 0xFFFF } .programCounterOutOfBounds)) :=
  ⟨by decide, by decide, by rfl, by rfl⟩

theorem witness_EveryInstructionKeepsItsFrame :
    exec (.ldMemVx 0xF) (State.reset.setI 0xFF0) =
      .next (((State.reset.setI 0xFF0).setCells 0xFF0 (List.replicate 16 0)).setI 0x1000).advance := by rfl

/-- FX0A with all keys up and with a key down, a skip, and an instruction of the plain kind. -/
theorem witness_DefaultAdvanceIsByTwo :
    exec (.ldVxK 0) State.reset = .next State.reset ∧ State.reset.outcome = .ok ∧
    exec (.ldVxK 0) (State.reset.setKey 15 true) = .next ((State.reset.setKey 15 true).setV 0 15).advance ∧
    exec (.seVxKk 0 0) State.reset = .next (State.reset.jump 0x204) ∧
    exec .cls State.reset = .next (State.reset.setGfx Gfx.clear).advance := ⟨by rfl, by rfl, by rfl, by rfl, by rfl⟩

/-- With all keys up, a step of FX0A that advanced would not be one. -/
theorem test_NextPc_refuses_an_advancing_wait : ¬NextPc (.ldVxK 0) State.reset State.reset.advance := by
  simp only [NextPc]
  decide

theorem witness_FixedPointsOfStep :
    (0xFFF : Word).toNat ≥ 4095 ∧ (lastPair 0x1FFE).pc.toNat = (0xFFE : Addr).toNat ∧ (lastPair 0x1FFE).pc.toNat ≤ 4094 ∧
    decodeBytes (lastPair 0x1FFE).cfg.profile (lastPair 0x1FFE).fetchBytes = .ok (.jp 0xFFE, []) := by decide

theorem witness_LoadedProgramRunsFrom0x200 :
    (Instr.jp 0x200).wellFormed (Device.powerOn defaultConfig).cfg.profile = true ∧
    (List.replicate 3582 (0xAB : Byte)).length ≤ 3582 :=
  ⟨by decide, by rw [List.length_replicate]⟩

/-- FX55 at 0xFFC with `I` at the next instruction, in the last two cells: JP 0x200 is in V0 and V1. -/
def aboutToStore : State := (({ State.reset with pc := 0xFFC }.setI 0xFFE).setV 0 0x12).setV 1 0x00

/-- FX33 at 0x200 with `I` at the second byte of the next instruction, whose first is 0x60, and 255 in V1. -/
def aboutToPatch : State := ((State.reset.setCell 0x202 0x60).setI 0x203).setV 1 0xFF

/-- FX55: the longest and the shortest run that end at 0xFFF, and two stored bytes that are the next instruction. -/
theorem witness_StoreIsSeenByTheNextFetch_registers :
    (State.reset.setI 0xFF0).i.toNat + (15 : RegIx).val ≤ 0xFFF ∧ (State.reset.setI 0xFFF).i.toNat + (0 : RegIx).val ≤ 0xFFF ∧
    aboutToStore.i.toNat + (1 : RegIx).val ≤ 0xFFF ∧ (aboutToStore.pc + 2).toNat ≤ 4094 ∧
    (0x1200 : Word).toNat =
      (aboutToStore.cellWith 0xFFE [0x12, 0x00] 0xFFE).toNat * 256 + (aboutToStore.cellWith 0xFFE [0x12, 0x00] 0xFFF).toNat ∧
    decode aboutToStore.cfg.profile 0x1200 = .ok (.jp 0x200) := by decide

/-- FX33: the last run that fits, and a stored digit that is one half of the next instruction, LD V0, 2. -/
theorem witness_StoreIsSeenByTheNextFetch_digits :
    (State.reset.setI 0xFFD).i.toNat + 2 ≤ 0xFFF ∧ aboutToPatch.i.toNat + 2 ≤ 0xFFF ∧
    (aboutToPatch.pc + 2).toNat ≤ 4094 ∧
    (0x6002 : Word).toNat =
      (aboutToPatch.cellWith 0x203 [2, 5, 5] 0x202).toNat * 256 + (aboutToPatch.cellWith 0x203 [2, 5, 5] 0x203).toNat ∧
    decode aboutToPatch.cfg.profile 0x6002 = .ok (.ldVxKk 0 2) := by decide

/-- `load`: the longest ROM, and one whose first two bytes are no instruction. -/
theorem witness_StoreIsSeenByTheNextFetch_load :
    (List.replicate 3584 (0 : Byte)).length ≤ 3584 ∧ State.reset.pc.toNat ≤ 4094 ∧
    (0x5121 : Word).toNat =
      (State.reset.cellWith 0x200 [0x51, 0x21] 0x200).toNat * 256 + (State.reset.cellWith 0x200 [0x51, 0x21] 0x201).toNat ∧
    decode State.reset.cfg.profile 0x5121 = .error .unrecognizedOpcode := by
  rw [List.length_replicate]
  decide

/-- FX33 over the next instruction, and then that instruction (IM7 for the digits): V0 becomes the stored digit. -/
theorem test_store_then_fetch :
    after aboutToPatch 0xF133 (fun t => match step t with
      | .next u => u.getV 0 = 2 && u.pc = 0x204
      | .fault _ | .refused _ => false) = true := by decide

theorem witness_FaultPcUnobservableWithoutFaults :
    runSchedule [.step] (.running (lastPair 0x6A05)) =
      .next (.running ((lastPair 0x6A05).setV 0xA 5).advance, [.stepped .ok]) ∧ NoFault [.stepped .ok] :=
  ⟨by rfl, by simp [NoFault]⟩

theorem witness_Source8IgnoresKeysAndTimers :
    (source8 (lastPair 0x6A05)).cfg.profile = .source8 ∧
    step (source8 (lastPair 0x6A05)) = .next ((source8 (lastPair 0x6A05)).setV 0xA 5).advance := ⟨by rfl, by rfl⟩

theorem witness_Source8TimersAndMemoryStay :
    (source8 State.reset).cfg.profile = .source8 ∧ (source8 State.reset).dt = 0 ∧ (source8 State.reset).st = 0 ∧
    runSchedule [.tickTimers] (.running (source8 State.reset)) = .next (.running (source8 State.reset), [.nothing]) :=
  ⟨by rfl, by rfl, by rfl, by rfl⟩

/-- Each clause: an empty stack, one address, sixteen. -/
theorem witness_RetPopsOrUnderflows :
    State.reset.sp.val = 0 ∧ ({ State.reset with sp := 1 } : State).sp.val = (0 : Fin 16).val + 1 ∧
    ({ State.reset with sp := 16 } : State).sp.val = (15 : Fin 16).val + 1 := by decide

theorem witness_JpSetsPcToTarget : State.reset.pc.toNat = (0x200 : Addr).toNat := by decide

/-- Each clause: an empty stack, fifteen addresses, sixteen. -/
theorem witness_CallPushesOrOverflows :
    State.reset.sp.val = (0 : Fin 16).val ∧ ({ State.reset with sp := 15 } : State).sp.val = (15 : Fin 16).val ∧
    ({ State.reset with sp := 16 } : State).sp.val = 16 := by decide

theorem witness_RetAfterCallReturns :
    ({ State.reset with sp := 15 } : State).sp.val < 16 ∧
    ∃ t, exec (.call 0x300) { State.reset with sp := 15 } = .next t ∧ ∃ u : State, u.stack = t.stack ∧ u.sp = t.sp :=
  ⟨by decide, _, rfl, _, rfl, rfl⟩

theorem witness_SixteenCallsThenOverflow :
    State.reset.sp.val = 0 ∧ (List.replicate 16 (0x200 : Addr)).length = 16 := by decide

theorem witness_AddVxKkWrapsWithoutFlag : (0xE : RegIx) ≠ vF := by decide

/-- The last byte of memory, and no byte at all. -/
theorem witness_DrwTogglesSpriteAndReportsCollision :
    ¬(0 < (1 : Count).val ∧ (State.reset.setI 0xFFF).i.toNat + (1 : Count).val - 1 > 0xFFF) ∧
    ¬(0 < (0 : Count).val ∧ (State.reset.setI 0xFFFF).i.toNat + (0 : Count).val - 1 > 0xFFF) := by decide

theorem witness_DrwTwiceRestoresPixels :
    (0 : RegIx) ≠ vF ∧ (0xE : RegIx) ≠ vF ∧
    ¬(0 < (15 : Count).val ∧ (State.reset.setI 0xFF1).i.toNat + (15 : Count).val - 1 > 0xFFF) := by decide

/-- Each reading of Q_LOGIC_VF_RESET, with X = F where it is off. -/
theorem witness_LogicOpsAndVfReset :
    ((1 : RegIx) ≠ vF ∧ State.reset.cfg.logicVfReset = true) ∧ (otherChoices State.reset).cfg.logicVfReset = false := by
  decide

theorem witness_AddVxVyAndCarry : (1 : RegIx) ≠ vF := by decide

theorem witness_SubtractionsAndBorrow : (1 : RegIx) ≠ vF := by decide

/-- Each reading of Q_SHIFT_SRC. -/
theorem witness_ShiftsAndBitShiftedOut :
    (((alu 0xF0 0x05).cfg.shiftSrc = .vy → (0x05 : Byte) = (alu 0xF0 0x05).getV 2) ∧
      ((alu 0xF0 0x05).cfg.shiftSrc = .vx → (0x05 : Byte) = (alu 0xF0 0x05).getV 1)) ∧
    (((otherChoices (alu 0xF0 0x05)).cfg.shiftSrc = .vy → (0xF0 : Byte) = (otherChoices (alu 0xF0 0x05)).getV 2) ∧
      ((otherChoices (alu 0xF0 0x05)).cfg.shiftSrc = .vx → (0xF0 : Byte) = (otherChoices (alu 0xF0 0x05)).getV 1)) := by
  decide

theorem witness_SkipOnKey : (0xA : Fin 16).val = ((withV 4 0x1A).getV 4).toNat % 16 := by decide

/-- Each clause: the least of two keys, and no key. -/
theorem witness_WaitForKeyTakesLeastKey :
    (((State.reset.setKey 9 true).setKey 7 true).key[7] = true ∧
      ∀ j : Fin 16, j < 7 → ((State.reset.setKey 9 true).setKey 7 true).key[j] = false) ∧
    ∀ k : Fin 16, State.reset.key[k] = false := by decide

theorem witness_BcdStoresThreeDigits : (State.reset.setI 0xFFD).i.toNat + 2 ≤ 0xFFF := by decide

theorem witness_StoreRegistersAtIndex : (State.reset.setI 0xFF0).i.toNat + (15 : RegIx).val ≤ 0xFFF := by decide

theorem witness_LoadRegistersFromIndex : (State.reset.setI 0xFFF).i.toNat + (0 : RegIx).val ≤ 0xFFF := by decide

/-- One byte past the end, for each of the four instructions. -/
theorem witness_RunsThatLeaveMemoryFault :
    RunLeavesMemory (.drw 0 0 1) (State.reset.setI 0x1000) ∧ RunLeavesMemory (.ldBVx 0) (State.reset.setI 0xFFE) ∧
    RunLeavesMemory (.ldMemVx 15) (State.reset.setI 0xFF1) ∧ RunLeavesMemory (.ldVxMem 0) (State.reset.setI 0x1000) := by
  simp [RunLeavesMemory, State.setI]

theorem witness_LoadAfterStoreRestoresRegisters :
    (State.reset.setI 0x300).i.toNat + (1 : RegIx).val ≤ 0xFFF ∧
    ∃ t, exec (.ldMemVx 1) (State.reset.setI 0x300) = .next t ∧
      ∃ u : State, u.mem = t.mem ∧ u.cfg = t.cfg ∧ u.i = (State.reset.setI 0x300).i :=
  ⟨by decide, _, rfl, { State.reset with i := 0x300 }, rfl, rfl, rfl⟩

/-- Each clause at the bound of R152 (S13), and the cells each side of a ROM of 3584 bytes. -/
theorem witness_LoadWritesRomOrRefuses :
    (List.replicate 3585 (0 : Byte)).length > 3584 ∧ (List.replicate 3584 (0 : Byte)).length ≤ 3584 ∧
    (List.replicate 3584 (0 : Byte))[3583]? = some 0 ∧ 0x1FF < 0x200 ∧
    0x200 + (List.replicate 3584 (0 : Byte)).length ≤ 0x1000 := by
  rw [List.length_replicate, List.length_replicate, List.getElem?_replicate]
  decide

theorem witness_KeyAndReadCommands : ((15 : Fin 16).val = 15) ∧ 16 > 15 := by decide

theorem witness_CommandsBeforeResetRefused : Command.load [] ≠ .reset := by decide

end Sys2Proof.Tests
end

section
/-! The state after the `reset` command, item by item (10_state.md R24; 70_reset_and_hazards.md R200). -/

namespace Sys2Proof.Machine

/-! ### The reset content of a cell -/

theorem resetByte_below_font (font : Font) (a : Nat) (h : a < 0x050) : resetByte font a = 0 := by
  rw [resetByte, dif_neg (by omega)]

@[simp] theorem resetByte_font (font : Font) (k : Fin 80) : resetByte font (0x050 + k.val) = font[k] := by
  rw [resetByte, dif_pos (by omega)]
  simp only [Nat.add_sub_cancel_left, Fin.getElem_fin]

theorem resetByte_above_font (font : Font) (a : Nat) (h : 0x0A0 ≤ a) : resetByte font a = 0 := by
  rw [resetByte, dif_neg (by omega)]

/-! ### The items of the reset state -/

section
variable (cfg : Config) (draws : Nat)

@[simp] theorem resetWith_getV (r : RegIx) : (State.resetWith cfg draws).getV r = 0 := Vector.getElem_replicate r.isLt
@[simp] theorem resetWith_i : (State.resetWith cfg draws).i = 0 := rfl
@[simp] theorem resetWith_pc : (State.resetWith cfg draws).pc = 0x200 := rfl
@[simp] theorem resetWith_stack : (State.resetWith cfg draws).stack = Vector.replicate 16 0 := rfl
@[simp] theorem resetWith_sp : (State.resetWith cfg draws).sp = 0 := rfl
@[simp] theorem resetWith_dt : (State.resetWith cfg draws).dt = 0 := rfl
@[simp] theorem resetWith_st : (State.resetWith cfg draws).st = 0 := rfl
@[simp] theorem resetWith_key : (State.resetWith cfg draws).key = Vector.replicate 16 false := rfl
@[simp] theorem resetWith_gfx : (State.resetWith cfg draws).gfx = Gfx.clear := rfl
@[simp] theorem resetWith_mem : (State.resetWith cfg draws).mem = [] := rfl
@[simp] theorem resetWith_outcome : (State.resetWith cfg draws).outcome = .ok := rfl
@[simp] theorem resetWith_draws : (State.resetWith cfg draws).draws = draws := rfl
@[simp] theorem resetWith_cfg : (State.resetWith cfg draws).cfg = cfg := rfl
/-- No cell is listed after reset, so each reads as its reset content. -/
@[simp] theorem resetWith_cell (a : Nat) : (State.resetWith cfg draws).cell a = resetByte cfg.font a := rfl

end

/-! ### The command -/

/-- The `reset` command is answered on every machine, and of the machine before it only the configuration and a count
of draws remain. -/
theorem issue_reset (d : Device) :
    ∃ draws, issue .reset d = .next (.running (State.resetWith d.cfg draws), .nothing) := by
  cases d with
  | powerOn cfg => exact ⟨0, rfl⟩
  | running s => exact ⟨s.draws, rfl⟩

/-- Settles O1: the machine `reset` answers with is `State.resetWith` of the same configuration, and each item of that
state has its own lemma above. -/
theorem resetWritesEveryItem : Obligations.ResetWritesEveryItem := by
  intro d
  obtain ⟨draws, hreset⟩ := issue_reset d
  refine ⟨State.resetWith d.cfg draws, hreset, resetWith_cfg .., ?below, ?font, ?above, resetWith_getV _ _,
    resetWith_i .., resetWith_pc .., ?stack, resetWith_sp .., resetWith_dt .., resetWith_st .., ?key, ?pixels⟩
  case below =>
    intro a ha
    rw [resetWith_cell, resetByte_below_font _ _ (by omega)]
  case font =>
    intro k
    rw [resetWith_cell, resetByte_font]
  case above =>
    intro a ha _
    rw [resetWith_cell, resetByte_above_font _ _ ha]
  case stack => simp
  case key => simp
  case pixels =>
    intro y x _ _
    rw [resetWith_gfx, clear_get]

end Sys2Proof.Machine
end

section
/-! The instruction cycle, stage by stage: the bound on `pc`, the opcode fetched, what it decodes to
(40_step_cycle.md R70 to R74). -/

namespace Sys2Proof.Machine

/-! ### The opcode at `pc` (20_memory.md R33) -/

/-- The opcode that a step fetches: the byte at `pc` is its high half. -/
def State.fetchWord (s : State) : Word := s.cell s.pc.toNat ++ s.cell (s.pc.toNat + 1)

theorem append_toNat (hi lo : Byte) : (hi ++ lo : Word).toNat = hi.toNat * 256 + lo.toNat := by
  have h : (hi ++ lo : Word).toNat = hi.toNat <<< 8 ||| lo.toNat := BitVec.toNat_append hi lo
  rw [h, ← Nat.shiftLeft_add_eq_or_of_lt lo.isLt, Nat.shiftLeft_eq]

theorem fetchWord_eq_iff (s : State) (op : Word) :
    s.fetchWord = op ↔ op.toNat = (s.cell s.pc.toNat).toNat * 256 + (s.cell (s.pc.toNat + 1)).toNat := by
  rw [← BitVec.toNat_inj, State.fetchWord, append_toNat, eq_comm]

/-- Two bytes decode as the word they make, with no byte left over. -/
theorem decodeBytes_pair (p : Profile) (hi lo : Byte) :
    decodeBytes p [hi, lo] = (decode p (hi ++ lo)).map fun i => (i, []) := by
  rw [decodeBytes]
  cases decode p (hi ++ lo) <;> rfl

theorem decodeBytes_fetchBytes (p : Profile) (s : State) :
    decodeBytes p s.fetchBytes = (decode p s.fetchWord).map fun i => (i, []) := decodeBytes_pair p _ _

/-! ### What a step does, by the stage that ends it -/

section
variable (s : State)

theorem step_of_pc_out_of_bounds (hpc : s.pc.toNat ≥ 4095) : step s = .next (s.raise .programCounterOutOfBounds) :=
  if_pos hpc

theorem step_of_decode_ok (hpc : s.pc.toNat ≤ 4094) (i : Instr) (hi : decode s.cfg.profile s.fetchWord = .ok i) :
    step s = exec i s := by
  rw [step, if_neg (by omega), decodeBytes_fetchBytes, hi]
  rfl

theorem step_of_decode_error (hpc : s.pc.toNat ≤ 4094) (r : Reject)
    (hr : decode s.cfg.profile s.fetchWord = .error r) : step s = .next (s.raise .unrecognizedOpcode) := by
  rw [step, if_neg (by omega), decodeBytes_fetchBytes, hr]
  rfl

end

/-! ### What a raised fault leaves (60_exceptions.md R171 to R176) -/

theorem raise_programCounterOutOfBounds (s : State) :
    s.raise .programCounterOutOfBounds = { s with outcome := .fault .programCounterOutOfBounds } := rfl

theorem raise_unchanged (s : State) (f : Fault) : Unchanged {} s (s.raise f) where
  regs r _ := raise_getV s f r
  index _ := raise_i s f
  stack _ := ⟨raise_stack s f, raise_sp s f⟩
  delay _ := raise_dt s f
  sound _ := raise_st s f
  pixels _ := raise_gfx s f
  draws _ := raise_draws s f
  cells a _ := raise_cell s f a
  key := raise_key s f
  cfg := raise_cfg s f

/-! ### The obligations -/

/-- Settles O13: a word of the stated value is the one fetched, and each stage of the cycle has its own lemma above. -/
theorem fetchBoundAndByteOrder : Obligations.FetchBoundAndByteOrder := by
  intro s
  refine ⟨fun hpc => ?bound, fun hpc op hop => ?fetched⟩
  case bound => rw [step_of_pc_out_of_bounds s hpc, raise_programCounterOutOfBounds]
  case fetched =>
    obtain rfl := (fetchWord_eq_iff s op).2 hop
    refine ⟨step_of_decode_ok s hpc, fun r hr => ?_⟩
    exact ⟨_, step_of_decode_error s hpc r hr, raise_outcome s _⟩

/-- Settles O14: the step raises `unrecognizedOpcode`, the fault that always moves `pc` past the opcode (R171). -/
theorem unrecognizedOpcodeIsPassedOver : Obligations.UnrecognizedOpcodeIsPassedOver := by
  intro s op hpc hop hdecode
  obtain rfl := (fetchWord_eq_iff s op).2 hop
  have hstep := step_of_decode_error s hpc _ hdecode
  have hnext : (s.raise .unrecognizedOpcode).pc = s.pc + 2 := by rw [raise_pc, faultPc_decode, State.npc]
  exact ⟨_, hstep, hnext, raise_outcome s _, raise_unchanged s _⟩

end Sys2Proof.Machine
end

section
/-! A jump: `pc` takes the target, the outcome is `Ok`, and nothing else changes (41_control_flow.md R81). -/

namespace Sys2Proof.Machine

@[simp] theorem zextAddr_toNat (nnn : Addr) : (zextAddr nnn).toNat = nnn.toNat :=
  BitVec.toNat_setWidth_of_le (by omega)

theorem jump_unchanged (s : State) (target : Word) : Unchanged {} s (s.jump target) where
  regs r _ := jump_getV s target r
  index _ := jump_i s target
  stack _ := ⟨jump_stack s target, jump_sp s target⟩
  delay _ := jump_dt s target
  sound _ := jump_st s target
  pixels _ := jump_gfx s target
  draws _ := jump_draws s target
  cells a _ := jump_cell s target a
  key := jump_key s target
  cfg := jump_cfg s target

/-- A jump to where `pc` is already (40_step_cycle.md R76, the self-jump). -/
theorem jump_pc_self (s : State) : s.jump s.pc = { s with outcome := .ok } := rfl

theorem exec_jp (s : State) (nnn : Addr) : exec (.jp nnn) s = .next (s.jump (zextAddr nnn)) := rfl

/-- Settles O27: JP jumps to NNN zero-extended, which is `pc` itself where `pc` is NNN already. -/
theorem jpSetsPcToTarget : Obligations.JpSetsPcToTarget := by
  intro s nnn
  refine ⟨s.jump (zextAddr nnn), exec_jp s nnn, ?target, jump_outcome s _, jump_unchanged s _, ?self⟩
  case target => rw [jump_pc, zextAddr_toNat]
  case self =>
    intro hpc
    have htarget : zextAddr nnn = s.pc := BitVec.eq_of_toNat_eq ((zextAddr_toNat nnn).trans hpc.symm)
    rw [htarget, jump_pc_self]

end Sys2Proof.Machine
end

section
/-! The immediate loads and add: one register or `I` is written, and then `pc` advances by 2
(42_load_add_immediate.md R85 to R87). -/

namespace Sys2Proof.Machine

/-! ### What one write, and a frame followed by an advance, leave unchanged -/

/-- A frame still holds after a further change of nothing but `pc` and the outcome. -/
theorem Unchanged.trans_empty {c : Touches} {s t u : State} (h : Unchanged c s t) (hu : Unchanged {} t u) :
    Unchanged c s u where
  regs r hr := (hu.regs r List.not_mem_nil).trans (h.regs r hr)
  index hc := (hu.index rfl).trans (h.index hc)
  stack hc := ⟨(hu.stack rfl).1.trans (h.stack hc).1, (hu.stack rfl).2.trans (h.stack hc).2⟩
  delay hc := (hu.delay rfl).trans (h.delay hc)
  sound hc := (hu.sound rfl).trans (h.sound hc)
  pixels hc := (hu.pixels rfl).trans (h.pixels hc)
  draws hc := (hu.draws rfl).trans (h.draws hc)
  cells a ha := (hu.cells a (by simp)).trans (h.cells a ha)
  key := hu.key.trans h.key
  cfg := hu.cfg.trans h.cfg

theorem Unchanged.advance {c : Touches} {s t : State} (h : Unchanged c s t) : Unchanged c s t.advance :=
  h.trans_empty (jump_unchanged t t.npc)

theorem setV_unchanged (s : State) (x : RegIx) (b : Byte) : Unchanged { regs := [x] } s (s.setV x b) where
  regs r hr := by rw [setV_getV, if_neg (List.ne_of_not_mem_cons hr)]
  index _ := setV_i s x b
  stack _ := ⟨setV_stack s x b, setV_sp s x b⟩
  delay _ := setV_dt s x b
  sound _ := setV_st s x b
  pixels _ := setV_gfx s x b
  draws _ := setV_draws s x b
  cells a _ := setV_cell s x b a
  key := setV_key s x b
  cfg := setV_cfg s x b

theorem setI_unchanged (s : State) (w : Word) : Unchanged { index := true } s (s.setI w) where
  regs r _ := setI_getV s w r
  index h := absurd h (by decide)
  stack _ := ⟨setI_stack s w, setI_sp s w⟩
  delay _ := setI_dt s w
  sound _ := setI_st s w
  pixels _ := setI_gfx s w
  draws _ := setI_draws s w
  cells a _ := setI_cell s w a
  key := setI_key s w
  cfg := setI_cfg s w

theorem setV_getV_same (s : State) (x : RegIx) (b : Byte) : (s.setV x b).getV x = b := by
  rw [setV_getV, if_pos rfl]

theorem setV_advance_pc (s : State) (x : RegIx) (b : Byte) : (s.setV x b).advance.pc = s.pc + 2 := by
  rw [advance_pc, setV_npc, State.npc]

theorem setI_advance_pc (s : State) (w : Word) : (s.setI w).advance.pc = s.pc + 2 := by
  rw [advance_pc, setI_npc, State.npc]

/-! ### The three instructions -/

theorem exec_ldVxKk (s : State) (x : RegIx) (kk : Byte) :
    exec (.ldVxKk x kk) s = .next (s.setV x kk).advance := rfl

theorem exec_addVxKk (s : State) (x : RegIx) (kk : Byte) :
    exec (.addVxKk x kk) s = .next (s.setV x (BitVec.ofNat 8 ((s.getV x).toNat + kk.toNat))).advance := rfl

theorem exec_ldINnn (s : State) (nnn : Addr) :
    exec (.ldINnn nnn) s = .next (s.setI (zextAddr nnn)).advance := rfl

/-- Settles O34: 6XKK is the write of one register and an advance, whichever register X is. -/
theorem ldVxKkLoadsByte : Obligations.LdVxKkLoadsByte := by
  intro s x kk
  refine ⟨_, exec_ldVxKk s x kk, ?loaded, setV_advance_pc s x kk, advance_outcome _, (setV_unchanged s x kk).advance⟩
  case loaded => rw [advance_getV, setV_getV_same]

/-- Settles O35: 7XKK too writes V[X] and no other register, so VF is kept by the frame of that write alone. -/
theorem addVxKkWrapsWithoutFlag : Obligations.AddVxKkWrapsWithoutFlag := by
  intro s x kk
  have hframe := (setV_unchanged s x (BitVec.ofNat 8 ((s.getV x).toNat + kk.toNat))).advance
  refine ⟨_, exec_addVxKk s x kk, ?sum, fun hx => ?flag, setV_advance_pc s x _, advance_outcome _, hframe⟩
  case sum => rw [advance_getV, setV_getV_same, BitVec.toNat_ofNat]
  case flag => exact hframe.regs vF (mt List.mem_singleton.1 hx.symm)

/-- Settles O36: ANNN is the write of `I`, with NNN zero-extended, and an advance. -/
theorem ldILoadsAddress : Obligations.LdILoadsAddress := by
  intro s nnn
  refine ⟨_, exec_ldINnn s nnn, ?loaded, setI_advance_pc s _, advance_outcome _, (setI_unchanged s _).advance⟩
  case loaded => rw [advance_i, setI_i, zextAddr_toNat]

end Sys2Proof.Machine
end

section
/-! Clearing the display: the pixel buffer is written, VF is not, and then `pc` advances by 2 (43_display.md R90). -/

namespace Sys2Proof.Machine

theorem setGfx_unchanged (s : State) (g : Gfx) : Unchanged { pixels := true } s (s.setGfx g) where
  regs r _ := setGfx_getV s g r
  index _ := setGfx_i s g
  stack _ := ⟨setGfx_stack s g, setGfx_sp s g⟩
  delay _ := setGfx_dt s g
  sound _ := setGfx_st s g
  pixels h := absurd h (by decide)
  draws _ := setGfx_draws s g
  cells a _ := setGfx_cell s g a
  key := setGfx_key s g
  cfg := setGfx_cfg s g

theorem setGfx_advance_pc (s : State) (g : Gfx) : (s.setGfx g).advance.pc = s.pc + 2 := by
  rw [advance_pc, setGfx_npc, State.npc]

theorem exec_cls (s : State) : exec .cls s = .next (s.setGfx Gfx.clear).advance := rfl

/-- Settles O38: CLS is the write of the cleared buffer and an advance, and the frame of that write lists no register,
so VF is kept. -/
theorem clsClearsEveryPixel : Obligations.ClsClearsEveryPixel := by
  intro s
  refine ⟨_, exec_cls s, fun y x _ _ => ?off, setGfx_advance_pc s _, advance_outcome _, (setGfx_unchanged s _).advance⟩
  case off => rw [advance_gfx, setGfx_gfx, clear_get]

end Sys2Proof.Machine
end

section
/-! A skip: `pc` moves past the next instruction or only to it, the outcome is `Ok`, and nothing else changes
(44_ext_skip_jump.md R100, R101, R105). -/

namespace Sys2Proof.Machine

theorem skipIf_unchanged (s : State) (c : Bool) : Unchanged {} s (s.skipIf c) := jump_unchanged s _

/-- R105 counted from the skip instruction itself instead of from `npc`. -/
theorem skipIf_pc_from_pc (s : State) (c : Bool) : (s.skipIf c).pc = if c then s.pc + 4 else s.pc + 2 := by
  have hskip : s.npc + 2 = s.pc + 4 := BitVec.add_assoc s.pc 2 2
  rw [skipIf_pc, hskip, State.npc]

/-- The skip on two equal bytes, as SE does. -/
theorem skipIf_beq_pc (s : State) (a b : Byte) :
    (s.skipIf (a == b)).pc = if a = b then s.pc + 4 else s.pc + 2 := by
  simp only [skipIf_pc_from_pc, beq_iff_eq]

/-- The skip on two unequal bytes, as SNE does. -/
theorem skipIf_bne_pc (s : State) (a b : Byte) :
    (s.skipIf (a != b)).pc = if a = b then s.pc + 2 else s.pc + 4 := by
  simp only [skipIf_pc_from_pc, bne_iff_ne, ne_eq, ite_not]

theorem exec_seVxKk (s : State) (x : RegIx) (kk : Byte) :
    exec (.seVxKk x kk) s = .next (s.skipIf (s.getV x == kk)) := rfl

theorem exec_sneVxKk (s : State) (x : RegIx) (kk : Byte) :
    exec (.sneVxKk x kk) s = .next (s.skipIf (s.getV x != kk)) := rfl

/-- Settles O31: 3XKK and 4XKK are the one skip operation under opposite conditions, and that operation changes `pc` and
the outcome alone. -/
theorem skipOnByte : Obligations.SkipOnByte := by
  intro s x kk
  exact ⟨_, _,
    exec_seVxKk s x kk, skipIf_beq_pc s _ kk, skipIf_outcome s _, skipIf_unchanged s _,
    exec_sneVxKk s x kk, skipIf_bne_pc s _ kk, skipIf_outcome s _, skipIf_unchanged s _⟩

end Sys2Proof.Machine
end

section
/-! The register-to-register copy: like the immediate load it is one write of V[X] and an advance, of a byte read before
the write (45_ext_alu.md R110). -/

namespace Sys2Proof.Machine

theorem exec_ldVxVy (s : State) (x y : RegIx) :
    exec (.ldVxVy x y) s = .next (s.setV x (s.getV y)).advance := rfl

/-- Settles O37: 8XY0 is the write of one register and an advance. V[Y] is read from the state before the write, so
neither X = Y nor X = F is a case of its own. -/
theorem ldVxVyCopies : Obligations.LdVxVyCopies := by
  intro s x y
  refine ⟨_, exec_ldVxVy s x y, ?copied, setV_advance_pc s x _, advance_outcome _, (setV_unchanged s x _).advance⟩
  case copied => rw [advance_getV, setV_getV_same]

end Sys2Proof.Machine
end

section
/-! The timer instructions: V[X], `dt` or `st` is written with a byte read before the write, and then `pc` advances by 2
(46_ext_keypad_timer_random.md R128, R130, R131). -/

namespace Sys2Proof.Machine

/-! ### What one write of a timer leaves unchanged -/

theorem setDt_unchanged (s : State) (b : Byte) : Unchanged { delay := true } s (s.setDt b) where
  regs r _ := setDt_getV s b r
  index _ := setDt_i s b
  stack _ := ⟨setDt_stack s b, setDt_sp s b⟩
  delay h := absurd h (by decide)
  sound _ := setDt_st s b
  pixels _ := setDt_gfx s b
  draws _ := setDt_draws s b
  cells a _ := setDt_cell s b a
  key := setDt_key s b
  cfg := setDt_cfg s b

theorem setSt_unchanged (s : State) (b : Byte) : Unchanged { sound := true } s (s.setSt b) where
  regs r _ := setSt_getV s b r
  index _ := setSt_i s b
  stack _ := ⟨setSt_stack s b, setSt_sp s b⟩
  delay _ := setSt_dt s b
  sound h := absurd h (by decide)
  pixels _ := setSt_gfx s b
  draws _ := setSt_draws s b
  cells a _ := setSt_cell s b a
  key := setSt_key s b
  cfg := setSt_cfg s b

theorem setDt_advance_pc (s : State) (b : Byte) : (s.setDt b).advance.pc = s.pc + 2 := by
  rw [advance_pc, setDt_npc, State.npc]

theorem setSt_advance_pc (s : State) (b : Byte) : (s.setSt b).advance.pc = s.pc + 2 := by
  rw [advance_pc, setSt_npc, State.npc]

/-! ### The three instructions -/

theorem exec_ldVxDt (s : State) (x : RegIx) : exec (.ldVxDt x) s = .next (s.setV x s.dt).advance := rfl

theorem exec_ldDtVx (s : State) (x : RegIx) : exec (.ldDtVx x) s = .next (s.setDt (s.getV x)).advance := rfl

theorem exec_ldStVx (s : State) (x : RegIx) : exec (.ldStVx x) s = .next (s.setSt (s.getV x)).advance := rfl

/-- Settles O47: each of the three is one write and an advance. FX07's write is of V[X], so its frame keeps `dt`; FX15's
and FX18's frames each list one timer and so keep the other. -/
theorem timersReadAndSet : Obligations.TimersReadAndSet := by
  intro s x
  refine ⟨⟨_, exec_ldVxDt s x, ?read, setV_advance_pc s x _, advance_outcome _, (setV_unchanged s x _).advance⟩,
    ⟨_, exec_ldDtVx s x, ?delay, setDt_advance_pc s _, advance_outcome _, (setDt_unchanged s _).advance⟩,
    ⟨_, exec_ldStVx s x, ?sound, setSt_advance_pc s _, advance_outcome _, (setSt_unchanged s _).advance⟩⟩
  case read => rw [advance_getV, setV_getV_same]
  case delay => rw [advance_dt, setDt_dt]
  case sound => rw [advance_st, setSt_st]

end Sys2Proof.Machine
end

section
/-! The `tickTimers` command: each timer steps down by one and stops at 0 (60_exceptions.md R183). -/

namespace Sys2Proof.Machine

/-- Subtraction of naturals is the floor of R183; above 0 the byte's own subtraction does not wrap, so the two agree. -/
theorem toNat_tick (t : Byte) : (tick t).toNat = t.toNat - 1 := by
  unfold tick
  split
  case isTrue hpos =>
    have hle : (1 : Byte) ≤ t := hpos
    exact BitVec.toNat_sub_of_le hle
  case isFalse hzero => omega

theorem issue_tickTimers (s : State) :
    issue .tickTimers (.running s) = .next (.running s.tickTimers, .nothing) := rfl

/-- Settles O55: the command is one tick of each timer, and it writes no other field. -/
theorem tickTimersFloorsAtZero : Obligations.TickTimersFloorsAtZero := by
  intro s
  refine ⟨s.tickTimers, issue_tickTimers s, ?delay, ?sound, rfl⟩
  case delay => rw [tickTimers_dt, toNat_tick]
  case sound => rw [tickTimers_st, toNat_tick]

end Sys2Proof.Machine
end

section
/-! What a reset forgets: two machines of one configuration that are reset, and then loaded with one ROM, differ at most
in the model's own count of random draws (70_reset_and_hazards.md R201). -/

namespace Sys2Proof.Machine

/-! ### Loading does not look at the count of draws -/

theorem setCells_with_draws (s : State) (n a : Nat) (bs : List Byte) :
    State.setCells { s with draws := n } a bs = { s.setCells a bs with draws := n } := by
  induction bs generalizing s a with
  | nil => rfl
  | cons b bs ih => exact ih (s.setCell a b) (a + 1)

/-- Both branches of R152: a ROM too large writes nothing, and a ROM that fits writes memory alone. -/
theorem load_with_draws (s : State) (n : Nat) (rom : List Byte) :
    State.load { s with draws := n } rom = ({ (s.load rom).1 with draws := n }, (s.load rom).2) := by
  unfold State.load
  split
  case isTrue => rfl
  case isFalse => rw [setCells_with_draws]

/-! ### `reset`, and then `load` -/

theorem resetWith_with_draws (cfg : Config) (m n : Nat) :
    { State.resetWith cfg m with draws := n } = State.resetWith cfg n := rfl

theorem resetCommand_resetCommand (s : State) : s.resetCommand.resetCommand = s.resetCommand := by
  rw [State.resetCommand, State.resetCommand, resetWith_cfg, resetWith_draws]

theorem issue_load (s : State) (rom : List Byte) :
    issue (.load rom) (.running s) = .next (.running (s.load rom).1, .loaded (s.load rom).2) := rfl

/-- Every machine answers both commands, and of the machine before them only the configuration and a count of draws
remain. -/
theorem runSchedule_reset_load (d : Device) (rom : List Byte) :
    ∃ draws, runSchedule [.reset, .load rom] d =
      .next (.running ((State.resetWith d.cfg draws).load rom).1,
        [.nothing, .loaded ((State.resetWith d.cfg draws).load rom).2]) := by
  obtain ⟨draws, hreset⟩ := issue_reset d
  exact ⟨draws, by simp only [runSchedule, hreset, issue_load]⟩

/-- Settles O2: the two runs end in the loads of `State.resetWith` of one configuration at two counts of draws, and a
load neither looks at that count nor changes it. -/
theorem resetIsTotalAndIdempotent : Obligations.ResetIsTotalAndIdempotent := by
  refine ⟨resetCommand_resetCommand, fun d e rom hcfg => ?sameState⟩
  case sameState =>
    obtain ⟨m, hd⟩ := runSchedule_reset_load d rom
    obtain ⟨n, he⟩ := runSchedule_reset_load e rom
    rw [← hcfg, ← resetWith_with_draws d.cfg m n, load_with_draws] at he
    exact ⟨_, _, _, hd, he, rfl⟩

end Sys2Proof.Machine
end

section
/-! What each remaining update leaves unchanged, and how a frame is widened (10_state.md R26). -/

namespace Sys2Proof.Machine

/-- A state that differs from another in `pc` and the outcome alone meets every frame. -/
theorem Unchanged.of_empty {s t : State} (h : Unchanged {} s t) (c : Touches) : Unchanged c s t where
  regs r _ := h.regs r List.not_mem_nil
  index _ := h.index rfl
  stack _ := h.stack rfl
  delay _ := h.delay rfl
  sound _ := h.sound rfl
  pixels _ := h.pixels rfl
  draws _ := h.draws rfl
  cells a _ := h.cells a (by simp)
  key := h.key
  cfg := h.cfg

section
variable (s : State)

theorem setVThenFlag_unchanged (x : RegIx) (b f : Byte) :
    Unchanged { regs := [x, vF] } s (s.setVThenFlag x b f) where
  regs r hr := by
    simp only [List.mem_cons, List.not_mem_nil, or_false, not_or] at hr
    rw [setVThenFlag_getV, if_neg hr.2, if_neg hr.1]
  index _ := setVThenFlag_i s x b f
  stack _ := ⟨setVThenFlag_stack s x b f, setVThenFlag_sp s x b f⟩
  delay _ := setVThenFlag_dt s x b f
  sound _ := setVThenFlag_st s x b f
  pixels _ := setVThenFlag_gfx s x b f
  draws _ := setVThenFlag_draws s x b f
  cells a _ := setVThenFlag_cell s x b f a
  key := setVThenFlag_key s x b f
  cfg := setVThenFlag_cfg s x b f

theorem setLogic_of_reset (x : RegIx) (b : Byte) (h : s.cfg.logicVfReset = true) :
    s.setLogic x b = s.setVThenFlag x b 0 := by
  rw [setLogic_cases, if_pos h]

theorem setLogic_of_no_reset (x : RegIx) (b : Byte) (h : s.cfg.logicVfReset = false) :
    s.setLogic x b = s.setV x b := by
  rw [setLogic_cases, h, if_neg Bool.false_ne_true]

/-- Each value of Q_LOGIC_VF_RESET has its own list of registers (D22). -/
theorem setLogic_unchanged (x : RegIx) (b : Byte) :
    Unchanged { regs := if s.cfg.logicVfReset then [x, vF] else [x] } s (s.setLogic x b) := by
  split
  case isTrue h => exact setLogic_of_reset s x b h ▸ setVThenFlag_unchanged s x b 0
  case isFalse h => exact setLogic_of_no_reset s x b (Bool.not_eq_true _ ▸ h) ▸ setV_unchanged s x b

theorem drawn_setV_unchanged (x : RegIx) (b : Byte) :
    Unchanged { regs := [x], draws := true } s (s.drawn.setV x b) where
  regs := (setV_unchanged s x b).regs
  index _ := rfl
  stack _ := ⟨rfl, rfl⟩
  delay _ := rfl
  sound _ := rfl
  pixels _ := rfl
  draws h := nomatch h
  cells _ _ := rfl
  key := rfl
  cfg := rfl

theorem setGfx_setV_unchanged (g : Gfx) (x : RegIx) (b : Byte) :
    Unchanged { regs := [x], pixels := true } s ((s.setGfx g).setV x b) where
  regs := (setV_unchanged s x b).regs
  index _ := rfl
  stack _ := ⟨rfl, rfl⟩
  delay _ := rfl
  sound _ := rfl
  pixels h := nomatch h
  draws _ := rfl
  cells _ _ := rfl
  key := rfl
  cfg := rfl

theorem setStack_unchanged (stack : Vector Word 16) (sp : Fin 17) :
    Unchanged { stack := true } s { s with stack := stack, sp := sp } where
  regs _ _ := rfl
  index _ := rfl
  stack h := nomatch h
  delay _ := rfl
  sound _ := rfl
  pixels _ := rfl
  draws _ := rfl
  cells _ _ := rfl
  key := rfl
  cfg := rfl

theorem setCells_unchanged (a : Nat) (bs : List Byte) :
    Unchanged { cells := (a, bs.length) } s (s.setCells a bs) where
  regs r _ := setCells_getV s a bs r
  index _ := setCells_i s a bs
  stack _ := ⟨setCells_stack s a bs, setCells_sp s a bs⟩
  delay _ := setCells_dt s a bs
  sound _ := setCells_st s a bs
  pixels _ := setCells_gfx s a bs
  draws _ := setCells_draws s a bs
  cells k hk := by rw [setCells_cell, if_neg hk]
  key := setCells_key s a bs
  cfg := setCells_cfg s a bs

/-- The registers that a run of bytes does not reach are kept (47_ext_index_memory.md R139). -/
theorem setVRun_unchanged (x : RegIx) (bs : List Byte) (hbs : bs.length ≤ x.val + 1) :
    Unchanged { regs := (List.finRange 16).filter (· ≤ x) } s (s.setVRun bs) where
  regs r hr := by
    have hx : x < r := by simpa using hr
    have hlen : bs.length ≤ r.val := hbs.trans (Nat.succ_le_of_lt hx)
    rw [setVRun_getV, List.getD_eq_default _ _ hlen]
  index _ := setVRun_i s bs
  stack _ := ⟨setVRun_stack s bs, setVRun_sp s bs⟩
  delay _ := setVRun_dt s bs
  sound _ := setVRun_st s bs
  pixels _ := setVRun_gfx s bs
  draws _ := setVRun_draws s bs
  cells a _ := setVRun_cell s bs a
  key := setVRun_key s bs
  cfg := setVRun_cfg s bs

theorem setLogic_advance_pc (x : RegIx) (b : Byte) : (s.setLogic x b).advance.pc = s.pc + 2 := by
  rw [advance_pc, setLogic_npc, State.npc]

theorem setVThenFlag_advance_pc (x : RegIx) (b f : Byte) : (s.setVThenFlag x b f).advance.pc = s.pc + 2 := by
  rw [advance_pc, setVThenFlag_npc, State.npc]

theorem setCells_advance_pc (a : Nat) (bs : List Byte) : (s.setCells a bs).advance.pc = s.pc + 2 := by
  rw [advance_pc, setCells_npc, State.npc]

/-- The move of `I` past a run is one more thing listed, and none where Q_MEM_I_INCREMENT is off (D23). -/
theorem Unchanged.setIndexAfterRun {s t : State} {regs : List RegIx} {cells : Nat × Nat}
    (h : Unchanged { regs := regs, cells := cells } s t) (x : RegIx) :
    Unchanged { regs := regs, index := s.cfg.memIIncrement, cells := cells } s (t.setI (s.indexAfterRun x)) where
  regs := h.regs
  index hoff := by
    have hkeep : s.cfg.memIIncrement = false := hoff
    rw [setI_i, State.indexAfterRun, hkeep, if_neg Bool.false_ne_true]
  stack := h.stack
  delay := h.delay
  sound := h.sound
  pixels := h.pixels
  draws := h.draws
  cells := h.cells
  key := h.key
  cfg := h.cfg

end

end Sys2Proof.Machine
end

section
/-! What an instruction that can fault does, on each side of its one check (41_control_flow.md R80, R82; 43_display.md
R91; 47_ext_index_memory.md R137 to R139). -/

namespace Sys2Proof.Machine

variable (s : State)

/-! ### RET and CALL -/

theorem exec_ret_of_empty (h : s.sp.val = 0) : exec .ret s = .next (s.raise .stackUnderflow) := by
  rw [exec, execRet, (pop_eq_none s).2 h]

theorem exec_ret_of_pos (h : s.sp.val ≠ 0) :
    exec .ret s = .next (State.jump { s with sp := ⟨s.sp.val - 1, by omega⟩ } (s.stack[s.sp.val - 1]'(by omega))) := by
  rw [exec, execRet, pop_of_pos s h]

theorem exec_call_of_full (nnn : Addr) (h : s.sp.val = 16) :
    exec (.call nnn) s = .next (s.raise .stackOverflow) := by
  rw [exec, execCall, push_of_full s _ h]

theorem exec_call_of_lt (nnn : Addr) (h : s.sp.val < 16) :
    exec (.call nnn) s = .next (State.jump
      { s with stack := s.stack.set s.sp.val s.npc, sp := ⟨s.sp.val + 1, by omega⟩ } (zextAddr nnn)) := by
  rw [exec, execCall, push_of_lt s _ h]

/-! ### The four instructions with a data run -/

/-- The bytes of the `n` cells from `I` up. -/
def State.cellsAtIndex (n : Nat) : List Byte := (List.range n).map fun k => s.cell (s.i.toNat + k)

@[simp] theorem cellsAtIndex_length (n : Nat) : (s.cellsAtIndex n).length = n := by simp [State.cellsAtIndex]

theorem cellsAtIndex_getD (n k : Nat) (hk : k < n) (b : Byte) :
    (s.cellsAtIndex n).getD k b = s.cell (s.i.toNat + k) := by
  simp [State.cellsAtIndex, List.getD, hk]

/-- The whole drawing of DXYN, from no collision. -/
def State.drawSprite (x y : RegIx) (n : Count) : Drawing :=
  drawRows (s.originX x) (s.originY y) 0 (s.cellsAtIndex n.val) { gfx := s.gfx, hit := false }

theorem exec_drw_of_in_memory (x y : RegIx) (n : Count) (h : ¬RunLeavesMemory (.drw x y n) s) :
    exec (.drw x y n) s =
      .next ((s.setGfx (s.drawSprite x y n).gfx).setV vF (flag (s.drawSprite x y n).hit)).advance := by
  have hin : ¬(0 < n.val ∧ s.i.toNat + n.val - 1 > 0xFFF) := h
  rw [exec, execDrw, memReadRun_eq, if_neg hin]
  rfl

theorem exec_ldBVx_of_in_memory (x : RegIx) (h : ¬RunLeavesMemory (.ldBVx x) s) :
    exec (.ldBVx x) s = .next (s.setCells s.i.toNat (decimalDigits (s.getV x))).advance := by
  have hin : ¬(0 < 3 ∧ s.i.toNat + 3 - 1 > 0xFFF) := fun hout => h hout.2
  rw [exec, execLdBVx, memWriteRun_eq, decimalDigits_length, if_neg hin]

theorem exec_ldMemVx_of_in_memory (x : RegIx) (h : ¬RunLeavesMemory (.ldMemVx x) s) :
    exec (.ldMemVx x) s = .next ((s.setCells s.i.toNat (s.regsUpTo x)).setI (s.indexAfterRun x)).advance := by
  have hin : ¬(0 < x.val + 1 ∧ s.i.toNat + (x.val + 1) - 1 > 0xFFF) := fun hout => h hout.2
  rw [exec, execLdMemVx, memWriteRun_eq, regsUpTo_length, if_neg hin]

theorem exec_ldVxMem_of_in_memory (x : RegIx) (h : ¬RunLeavesMemory (.ldVxMem x) s) :
    exec (.ldVxMem x) s = .next ((s.setVRun (s.cellsAtIndex (x.val + 1))).setI (s.indexAfterRun x)).advance := by
  have hin : ¬(0 < x.val + 1 ∧ s.i.toNat + (x.val + 1) - 1 > 0xFFF) := fun hout => h hout.2
  rw [exec, execLdVxMem, memReadRun_eq, if_neg hin]
  rfl

/-- All four stop at the check of the whole run, before any write (20_memory.md R38). -/
theorem exec_of_run_leaves_memory (i : Instr) (h : RunLeavesMemory i s) :
    exec i s = .next (s.raise .memoryOutOfBounds) := by
  cases i
  case drw x y n =>
    have hout : 0 < n.val ∧ s.i.toNat + n.val - 1 > 0xFFF := h
    rw [exec, execDrw, memReadRun_eq, if_pos hout]
  case ldBVx x =>
    have hout : 0 < 3 ∧ s.i.toNat + 3 - 1 > 0xFFF := ⟨by omega, h⟩
    rw [exec, execLdBVx, memWriteRun_eq, decimalDigits_length, if_pos hout]
  case ldMemVx x =>
    have hout : 0 < x.val + 1 ∧ s.i.toNat + (x.val + 1) - 1 > 0xFFF := ⟨by omega, h⟩
    rw [exec, execLdMemVx, memWriteRun_eq, regsUpTo_length, if_pos hout]
  case ldVxMem x =>
    have hout : 0 < x.val + 1 ∧ s.i.toNat + (x.val + 1) - 1 > 0xFFF := ⟨by omega, h⟩
    rw [exec, execLdVxMem, memReadRun_eq, if_pos hout]
  all_goals exact h.elim

end Sys2Proof.Machine
end

section
/-! What an instruction can do: raise the fault of its one check, or end with `Ok` having changed what its rule lists
(60_exceptions.md R172, R173, R176; 40_step_cycle.md R72). -/

namespace Sys2Proof.Machine

/-- The instruction's one check fails, and `f` is the fault it raises. -/
inductive Raises : Instr → State → Fault → Prop
  | underflow {s : State} (h : s.sp.val = 0) : Raises .ret s .stackUnderflow
  | overflow {s : State} (nnn : Addr) (h : s.sp.val = 16) : Raises (.call nnn) s .stackOverflow
  | run {s : State} {i : Instr} (h : RunLeavesMemory i s) : Raises i s .memoryOutOfBounds

theorem exec_of_raises {i : Instr} {s : State} {f : Fault} (h : Raises i s f) : exec i s = .next (s.raise f) := by
  cases h with
  | underflow h => exact exec_ret_of_empty s h
  | overflow nnn h => exact exec_call_of_full s nnn h
  | run h => exact exec_of_run_leaves_memory s i h

/-- What holds of the state that an instruction without a fault leaves. -/
structure Completes (i : Instr) (s t : State) : Prop where
  outcome : t.outcome = .ok
  frame : Unchanged (touches i s) s t
  nextPc : NextPc i s t
  memory : s.mem.wf s.cfg.font = true → t.mem.wf t.cfg.font = true

section
variable {i : Instr} {s t : State}

/-- An instruction that advances and does not store. -/
theorem completes_advance (hframe : Unchanged (touches i s) s t) (hmem : t.mem = s.mem)
    (hnext : NextPc i s t.advance) : Completes i s t.advance where
  outcome := advance_outcome t
  frame := hframe.advance
  nextPc := hnext
  memory h := by rwa [advance_mem, advance_cfg, hmem, hframe.cfg]

/-- An instruction that advances and stores a run that stays in memory. -/
theorem completes_store (a : Nat) (bs : List Byte) (hin : a + bs.length ≤ 4096)
    (hframe : Unchanged (touches i s) s t) (hmem : t.mem = (s.setCells a bs).mem)
    (hnext : NextPc i s t.advance) : Completes i s t.advance where
  outcome := advance_outcome t
  frame := hframe.advance
  nextPc := hnext
  memory h := by
    rw [advance_mem, advance_cfg, hmem, hframe.cfg]
    exact setCells_wf s a bs hin h

/-- OR, AND, XOR. -/
theorem setLogic_completes (s : State) (x : RegIx) (b : Byte)
    (htouches : touches i s = { regs := if s.cfg.logicVfReset then [x, vF] else [x] })
    (hnext : NextPc i s (s.setLogic x b).advance) : Completes i s (s.setLogic x b).advance :=
  completes_advance (htouches ▸ setLogic_unchanged s x b) (setLogic_mem s x b) hnext

/-- An instruction that sets `pc` and changes at most what the frame of the state before that lists. -/
theorem completes_jump (w : Word) (hframe : Unchanged (touches i s) s t) (hmem : t.mem = s.mem)
    (hnext : NextPc i s (t.jump w)) : Completes i s (t.jump w) where
  outcome := jump_outcome t w
  frame := hframe.trans_empty (jump_unchanged t w)
  nextPc := hnext
  memory h := by rwa [jump_mem, jump_cfg, hmem, hframe.cfg]

end

/-- R105 as `NextPc` says it: one of two values. -/
theorem skipIf_pc_cases (s : State) (c : Bool) : (s.skipIf c).pc = s.pc + 2 ∨ (s.skipIf c).pc = s.pc + 4 := by
  rw [skipIf_pc_from_pc]
  cases c
  · exact .inl rfl
  · exact .inr rfl

/-- A frame that lists nothing holds of a state and itself. -/
theorem unchanged_refl (s : State) : Unchanged {} s s where
  regs _ _ := rfl
  index _ := rfl
  stack _ := ⟨rfl, rfl⟩
  delay _ := rfl
  sound _ := rfl
  pixels _ := rfl
  draws _ := rfl
  cells _ _ := rfl
  key := rfl
  cfg := rfl

theorem exec_ldVxK_of_key (s : State) (x : RegIx) (k : Fin 16) (h : s.leastKey = some k) :
    exec (.ldVxK x) s = .next (s.setV x (BitVec.ofNat 8 k.val)).advance := by
  rw [exec, execLdVxK, h]

theorem exec_ldVxK_of_no_key (s : State) (x : RegIx) (h : s.leastKey = none) :
    exec (.ldVxK x) s = .next (s.jump s.pc) := by
  rw [exec, execLdVxK, h]

/-- FX0A completes whether it takes a key or stays. -/
theorem exec_ldVxK_completes (s : State) (x : RegIx) :
    ∃ t, exec (.ldVxK x) s = .next t ∧ Completes (.ldVxK x) s t := by
  cases hkey : s.leastKey with
  | some k =>
    have hdown : ∃ k : Fin 16, s.key[k] = true := ⟨k, (leastKey_eq_some s k hkey).1⟩
    exact ⟨_, exec_ldVxK_of_key s x k hkey, completes_advance (setV_unchanged s x _) rfl (.inl ⟨hdown, rfl⟩)⟩
  | none =>
    have hup := (leastKey_eq_none s).1 hkey
    exact ⟨_, exec_ldVxK_of_no_key s x hkey,
      completes_jump _ ((unchanged_refl s).of_empty _) rfl (.inr ⟨hup, rfl⟩)⟩

/-- Every instruction raises the fault of its check, or completes. -/
theorem exec_cases (i : Instr) (s : State) : (∃ f, Raises i s f) ∨ ∃ t, exec i s = .next t ∧ Completes i s t := by
  by_cases hrun : RunLeavesMemory i s
  · exact .inl ⟨_, .run hrun⟩
  cases i
  case ret =>
    by_cases h : s.sp.val = 0
    · exact .inl ⟨_, .underflow h⟩
    · exact .inr ⟨_, exec_ret_of_pos s h, completes_jump _ (setStack_unchanged s s.stack _) rfl trivial⟩
  case call nnn =>
    by_cases h : s.sp.val = 16
    · exact .inl ⟨_, .overflow nnn h⟩
    · exact .inr ⟨_, exec_call_of_lt s nnn (by omega), completes_jump _ (setStack_unchanged s _ _) rfl trivial⟩
  all_goals right
  case cls => exact ⟨_, rfl, completes_advance (setGfx_unchanged s _) rfl rfl⟩
  case jp | jpV0Nnn => exact ⟨_, rfl, completes_jump _ (unchanged_refl s) rfl trivial⟩
  case seVxKk | sneVxKk | seVxVy | sneVxVy | skpVx | sknpVx =>
    exact ⟨_, rfl, completes_jump _ (unchanged_refl s) rfl (skipIf_pc_cases s _)⟩
  case ldVxKk | addVxKk | ldVxVy | ldVxDt => exact ⟨_, rfl, completes_advance (setV_unchanged s _ _) rfl rfl⟩
  case ldVxK x => exact exec_ldVxK_completes s x
  case orVxVy | andVxVy | xorVxVy => exact ⟨_, rfl, setLogic_completes s _ _ rfl (setLogic_advance_pc s _ _)⟩
  case addVxVy | subVxVy | shrVxVy | subnVxVy | shlVxVy =>
    exact ⟨_, rfl, completes_advance (setVThenFlag_unchanged s _ _ _) rfl rfl⟩
  case rndVxKk => exact ⟨_, rfl, completes_advance (drawn_setV_unchanged s _ _) rfl rfl⟩
  case ldDtVx => exact ⟨_, rfl, completes_advance (setDt_unchanged s _) rfl rfl⟩
  case ldStVx => exact ⟨_, rfl, completes_advance (setSt_unchanged s _) rfl rfl⟩
  case ldINnn | addIVx | ldFVx => exact ⟨_, rfl, completes_advance (setI_unchanged s _) rfl rfl⟩
  case drw x y n =>
    exact ⟨_, exec_drw_of_in_memory s x y n hrun, completes_advance (setGfx_setV_unchanged s _ vF _) rfl rfl⟩
  case ldBVx x =>
    have hin : s.i.toNat + (decimalDigits (s.getV x)).length ≤ 4096 := by
      simp only [RunLeavesMemory, decimalDigits_length] at hrun ⊢
      omega
    exact ⟨_, exec_ldBVx_of_in_memory s x hrun,
      completes_store _ _ hin (setCells_unchanged s s.i.toNat (decimalDigits (s.getV x))) rfl
        (setCells_advance_pc s _ _)⟩
  case ldMemVx x =>
    have hin : s.i.toNat + (s.regsUpTo x).length ≤ 4096 := by
      simp only [RunLeavesMemory, regsUpTo_length] at hrun ⊢
      omega
    have hframe := (setCells_unchanged s s.i.toNat (s.regsUpTo x)).setIndexAfterRun x
    rw [regsUpTo_length] at hframe
    exact ⟨_, exec_ldMemVx_of_in_memory s x hrun, completes_store _ _ hin hframe rfl
      (setCells_advance_pc s _ _)⟩
  case ldVxMem x =>
    have hframe := setVRun_unchanged s x (s.cellsAtIndex (x.val + 1)) (by simp)
    exact ⟨_, exec_ldVxMem_of_in_memory s x hrun, completes_advance (hframe.setIndexAfterRun x) rfl rfl⟩

/-! ### Read from the answer back to the case -/

section
variable {i : Instr} {s t : State} {f : Fault}

theorem raises_or_completes (h : exec i s = .next t) : (∃ f, Raises i s f ∧ t = s.raise f) ∨ Completes i s t := by
  obtain ⟨f, hf⟩ | ⟨u, hu, hc⟩ := exec_cases i s
  · rw [exec_of_raises hf] at h
    exact .inl ⟨f, hf, by injection h with h; exact h.symm⟩
  · rw [hu] at h
    injection h with h
    exact .inr (h ▸ hc)

theorem completes_of_ok (h : exec i s = .next t) (hok : t.outcome = .ok) : Completes i s t := by
  obtain ⟨f, -, rfl⟩ | hc := raises_or_completes h
  · cases hok
  · exact hc

theorem outcome_eq_fault_iff (h : exec i s = .next t) : t.outcome = .fault f ↔ Raises i s f := by
  constructor
  · intro hf
    obtain ⟨g, hg, rfl⟩ | hc := raises_or_completes h
    · cases hf
      exact hg
    · cases hf.symm.trans hc.outcome
  · intro hf
    rw [exec_of_raises hf] at h
    cases h
    rfl

theorem raises_stackOverflow_iff : Raises i s .stackOverflow ↔ ∃ nnn, i = .call nnn ∧ s.sp.val = 16 := by
  constructor
  · intro h
    cases h with
    | overflow nnn hsp => exact ⟨nnn, rfl, hsp⟩
  · rintro ⟨nnn, rfl, h⟩
    exact .overflow nnn h

theorem raises_stackUnderflow_iff : Raises i s .stackUnderflow ↔ i = .ret ∧ s.sp.val = 0 := by
  constructor
  · intro h
    cases h with
    | underflow hsp => exact ⟨rfl, hsp⟩
  · rintro ⟨rfl, h⟩
    exact .underflow h

theorem raises_memoryOutOfBounds_iff : Raises i s .memoryOutOfBounds ↔ RunLeavesMemory i s := by
  constructor
  · intro h
    cases h with
    | run hrun => exact hrun
  · exact .run

/-- No instruction raises the fault of the fetch stage, nor that of the decode stage. -/
theorem not_raises_earlier_stage : ¬Raises i s .programCounterOutOfBounds ∧ ¬Raises i s .unrecognizedOpcode :=
  ⟨nofun, nofun⟩

end

end Sys2Proof.Machine
end

section
/-! What the fault of an execute stage leaves, and what every instruction leaves unchanged (60_exceptions.md R175, R176;
10_state.md R26; 40_step_cycle.md R72). -/

namespace Sys2Proof.Machine

/-! ### The `pc` of a raised fault, by FAULT_PC -/

section
variable (s : State) (f : Fault)

/-- Under `advance`, every fault but that of the fetch moves `pc` past the instruction. -/
theorem faultPc_of_advance (hf : f ≠ .programCounterOutOfBounds) (hq : s.cfg.faultPc = .advance) :
    s.faultPc f = s.pc + 2 := by
  cases f
  case programCounterOutOfBounds => exact absurd rfl hf
  all_goals simp only [State.faultPc, State.npc, hq]

/-- Under `hold`, every fault but that of the decoding keeps `pc`. -/
theorem faultPc_of_hold (hf : f ≠ .unrecognizedOpcode) (hq : s.cfg.faultPc = .hold) : s.faultPc f = s.pc := by
  cases f
  case unrecognizedOpcode => exact absurd rfl hf
  all_goals simp only [State.faultPc, hq]

theorem raise_executeFault (hfetch : f ≠ .programCounterOutOfBounds) (hdecode : f ≠ .unrecognizedOpcode) :
    ExecuteFault f s (s.raise f) where
  outcome := raise_outcome s f
  advance := faultPc_of_advance s f hfetch
  hold := faultPc_of_hold s f hdecode
  rest := raise_unchanged s f

end

/-- Settles O18: a raised fault changes nothing that a frame could list, and an instruction that completes keeps its
frame. -/
theorem everyInstructionKeepsItsFrame : Obligations.EveryInstructionKeepsItsFrame := by
  intro i s t h
  obtain ⟨f, -, rfl⟩ | hc := raises_or_completes h
  · exact (raise_unchanged s f).of_empty _
  · exact hc.frame

/-- Settles O19: an outcome `Ok` excludes a raised fault, and `NextPc` holds of what completes. -/
theorem defaultAdvanceIsByTwo : Obligations.DefaultAdvanceIsByTwo := by
  intro i s t h hok
  exact (completes_of_ok h hok).nextPc

/-- Settles O53: the run is checked before any write, so what is left is the raised fault alone. -/
theorem runsThatLeaveMemoryFault : Obligations.RunsThatLeaveMemoryFault := by
  intro i s h
  exact ⟨_, exec_of_run_leaves_memory s i h, raise_executeFault s _ nofun nofun⟩

end Sys2Proof.Machine
end

section
/-! The step as a whole: it always continues, which outcome it returns, and what a fault leaves (40_step_cycle.md R70 to
R76; 60_exceptions.md R177, R181). -/

namespace Sys2Proof.Machine

variable {s t : State}

/-! ### The stage that ends a step -/

/-- The three ways a step can go: no fetch, no decoding, the decoded instruction. -/
theorem step_cases (s : State) :
    (s.pc.toNat ≥ 4095 ∧ step s = .next (s.raise .programCounterOutOfBounds)) ∨
    (s.pc.toNat ≤ 4094 ∧ (∃ r, decode s.cfg.profile s.fetchWord = .error r) ∧
      step s = .next (s.raise .unrecognizedOpcode)) ∨
    (s.pc.toNat ≤ 4094 ∧ ∃ i, decode s.cfg.profile s.fetchWord = .ok i ∧ step s = exec i s) := by
  by_cases hpc : s.pc.toNat ≥ 4095
  · exact .inl ⟨hpc, step_of_pc_out_of_bounds s hpc⟩
  have hin : s.pc.toNat ≤ 4094 := by omega
  cases hd : decode s.cfg.profile s.fetchWord with
  | error r => exact .inr (.inl ⟨hin, ⟨r, rfl⟩, step_of_decode_error s hin r hd⟩)
  | ok i => exact .inr (.inr ⟨hin, i, rfl, step_of_decode_ok s hin i hd⟩)

theorem decodeBytes_fetchBytes_ok (p : Profile) (s : State) (i : Instr) (rest : List Byte) :
    decodeBytes p s.fetchBytes = .ok (i, rest) ↔ decode p s.fetchWord = .ok i ∧ rest = [] := by
  rw [decodeBytes_fetchBytes]
  cases decode p s.fetchWord with
  | error r => simp [Except.map]
  | ok j => simp [Except.map, eq_comm]

theorem decodeBytes_fetchBytes_error (p : Profile) (s : State) (r : Reject) :
    decodeBytes p s.fetchBytes = .error r ↔ decode p s.fetchWord = .error r := by
  rw [decodeBytes_fetchBytes]
  cases decode p s.fetchWord <;> simp [Except.map]

theorem step_of_decodeBytes (hpc : s.pc.toNat ≤ 4094) (i : Instr) (rest : List Byte)
    (h : decodeBytes s.cfg.profile s.fetchBytes = .ok (i, rest)) : step s = exec i s :=
  step_of_decode_ok s hpc i ((decodeBytes_fetchBytes_ok _ s i rest).1 h).1

/-- Settles O12: the two bytes at `pc` are the ones fetched. -/
theorem stepRunsDecodedInstruction : Obligations.StepRunsDecodedInstruction := by
  intro s i rest hpc h
  exact step_of_decodeBytes hpc i rest h

/-! ### Every step is answered -/

theorem exec_continues (i : Instr) (s : State) : ∃ t, exec i s = .next t := by
  obtain ⟨f, hf⟩ | ⟨t, ht, -⟩ := exec_cases i s
  · exact ⟨_, exec_of_raises hf⟩
  · exact ⟨t, ht⟩

/-- Settles O15: each stage that finds a fault answers with it, and so does every instruction or it completes. -/
theorem stepAlwaysContinues : Obligations.StepAlwaysContinues := by
  intro s
  obtain ⟨-, hstep⟩ | ⟨-, -, hstep⟩ | ⟨-, i, -, hstep⟩ := step_cases s
  · exact ⟨_, hstep⟩
  · exact ⟨_, hstep⟩
  · rw [hstep]
    exact exec_continues i s

/-! ### Outcomes -/

/-- Settles O16: each of the three stages decides all five outcomes, the last one by the instruction's own check. -/
theorem outcomeIsTheFirstFaultFound : Obligations.OutcomeIsTheFirstFaultFound := by
  intro s t h
  simp only [decodeBytes_fetchBytes_ok, decodeBytes_fetchBytes_error, and_true]
  obtain ⟨hpc, hstep⟩ | ⟨hpc, ⟨r, hr⟩, hstep⟩ | ⟨hpc, i, hi, hstep⟩ := step_cases s
  · have hout : ¬s.pc.toNat ≤ 4094 := by omega
    cases hstep.symm.trans h
    simp [hpc, hout]
  · have hin : ¬s.pc.toNat ≥ 4095 := by omega
    cases hstep.symm.trans h
    simp [hpc, hin, hr]
  · have hin : ¬s.pc.toNat ≥ 4095 := by omega
    simp only [outcome_eq_fault_iff (hstep.symm.trans h), not_raises_earlier_stage, raises_stackOverflow_iff,
      raises_stackUnderflow_iff, raises_memoryOutOfBounds_iff]
    simp [hpc, hin, hi]

theorem step_fault_eq_raise {f : Fault} (h : step s = .next t) (hf : t.outcome = .fault f) : t = s.raise f := by
  obtain ⟨-, hstep⟩ | ⟨-, -, hstep⟩ | ⟨-, i, -, hstep⟩ := step_cases s
  · cases hstep.symm.trans h
    cases hf
    rfl
  · cases hstep.symm.trans h
    cases hf
    rfl
  · have hexec := hstep.symm.trans h
    cases (exec_of_raises ((outcome_eq_fault_iff hexec).1 hf)).symm.trans hexec
    rfl

/-- Settles O17: a faulting step is a raised fault, whichever stage found it. -/
theorem faultsArePrecise : Obligations.FaultsArePrecise := by
  intro s t f h hf
  obtain rfl := step_fault_eq_raise h hf
  refine ⟨raise_unchanged s f, ?fetch, ?decode, fun hfetch hdecode => ?execute⟩
  case fetch =>
    rintro rfl
    rw [raise_pc, faultPc_fetch]
  case decode =>
    rintro rfl
    rw [raise_pc, faultPc_decode, State.npc]
  case execute => exact ⟨faultPc_of_advance s f hfetch, faultPc_of_hold s f hdecode⟩

/-! ### Fixed points (R76) -/

theorem core_run_succ (h : step s = .next t) (n : Nat) : Sys2Proof.core.run (n + 1) s = Sys2Proof.core.run n t := by
  have hcore : Sys2Proof.core.step s = .next t := h
  simp only [Host.Core.run, hcore]

/-- A step whose answer is answered by itself is repeated for ever. -/
theorem run_of_step_fixed (h : step s = .next t) (hfix : step t = .next t) (n : Nat) :
    Sys2Proof.core.run (n + 1) s = .next t := by
  induction n generalizing s with
  | zero => exact core_run_succ h 0
  | succ n ih => rw [core_run_succ h, ih hfix]

theorem step_self_jump (s : State) (nnn : Addr) (hpc : s.pc.toNat = nnn.toNat) (hin : s.pc.toNat ≤ 4094)
    (h : decodeBytes s.cfg.profile s.fetchBytes = .ok (.jp nnn, [])) : step s = .next { s with outcome := .ok } := by
  have htarget : zextAddr nnn = s.pc := BitVec.eq_of_toNat_eq ((zextAddr_toNat nnn).trans hpc.symm)
  rw [step_of_decodeBytes hin _ _ h, exec_jp, htarget, jump_pc_self]

/-- Settles O20: in both cases the next state differs in its outcome alone, which no step reads, so it is its own next
state. -/
theorem fixedPointsOfStep : Obligations.FixedPointsOfStep := by
  refine ⟨fun s n hpc => ?outOfBounds, fun s n nnn hpc hin h => ?selfJump⟩
  case outOfBounds => exact run_of_step_fixed (step_of_pc_out_of_bounds s hpc) (step_of_pc_out_of_bounds _ hpc) n
  case selfJump => exact run_of_step_fixed (step_self_jump s nnn hpc hin h) (step_self_jump _ nnn hpc hin h) n

end Sys2Proof.Machine
end

section
/-! The invariant: reset establishes it, every step and every command keeps it (10_state.md R14, R25). -/

namespace Sys2Proof.Machine

variable {s t : State}

/-! ### Reset -/

theorem resetWith_inv (cfg : Config) (n : Nat) : Inv (State.resetWith cfg n) where
  memory := rfl
  pc := by
    rw [resetWith_pc]
    decide
  stack k hk := absurd hk (Nat.not_lt_zero _)

/-- Settles O4: after reset no cell is listed, `pc` is 0x200 and the stack is empty. -/
theorem resetEstablishesInvariant : Obligations.ResetEstablishesInvariant :=
  ⟨rfl, resetWith_inv defaultConfig 0, resetWith_inv⟩

/-! ### A fault, and an instruction that goes on to what follows it -/

theorem npc_toNat (hpc : s.pc.toNat ≤ 4094) : s.npc.toNat = s.pc.toNat + 2 := by
  rw [State.npc]
  bv_omega

/-- Every fault but that of the fetch is found at a `pc` that can still advance. -/
theorem raise_inv (f : Fault) (hpc : s.pc.toNat ≤ 4094 ∨ f = .programCounterOutOfBounds) (h : Inv s) :
    Inv (s.raise f) where
  memory := h.memory
  pc := by
    obtain hpc | rfl := hpc
    · have hnpc := npc_toNat hpc
      obtain hnext | hkept := faultPc_cases s f
      · rw [raise_pc, hnext]
        omega
      · rw [raise_pc, hkept]
        omega
    · exact h.pc
  stack := h.stack

/-- RET, JP, CALL and BNNN, the instructions whose next `pc` is no matter of `NextPc`. -/
def setsPc : Instr → Bool
  | .ret | .jp _ | .call _ | .jpV0Nnn _ => true
  | _ => false

theorem nextPc_of_not_setsPc {i : Instr} (hi : setsPc i = false) (h : NextPc i s t) :
    t.pc = s.pc ∨ t.pc = s.pc + 2 ∨ t.pc = s.pc + 4 := by
  cases i
  case ret | jp | call | jpV0Nnn => cases hi
  case seVxKk | sneVxKk | seVxVy | sneVxVy | skpVx | sknpVx => exact .inr h
  case ldVxK => exact h.elim (fun hdown => .inr (.inl hdown.2)) (fun hup => .inl hup.2)
  all_goals exact .inr (.inl h)

theorem touches_stack_of_not_setsPc {i : Instr} (hi : setsPc i = false) : (touches i s).stack = false := by
  cases i
  case ret | call => cases hi
  all_goals rfl

theorem completes_inv_of_not_setsPc {i : Instr} (hi : setsPc i = false) (hpc : s.pc.toNat ≤ 4094)
    (hc : Completes i s t) (h : Inv s) : Inv t where
  memory := hc.memory h.memory
  pc := by
    obtain hnext | hnext | hnext := nextPc_of_not_setsPc hi hc.nextPc <;> rw [hnext] <;> bv_omega
  stack := by
    obtain ⟨hstack, hsp⟩ := hc.frame.stack (touches_stack_of_not_setsPc hi)
    rw [hstack, hsp]
    exact h.stack

/-! ### RET, JP, CALL, BNNN -/

theorem jump_inv (w : Word) (hw : w.toNat ≤ 0x10FE) (h : Inv s) : Inv (s.jump w) where
  memory := h.memory
  pc := hw
  stack := h.stack

/-- Every live return address is one that `pc` may take, and one less of them is live. -/
theorem ret_inv (hsp : s.sp.val ≠ 0) (h : Inv s) :
    Inv (State.jump { s with sp := ⟨s.sp.val - 1, by omega⟩ } (s.stack[s.sp.val - 1]'(by omega))) where
  memory := h.memory
  pc := by
    have htop := (h.stack ⟨s.sp.val - 1, by omega⟩ (by simp only; omega)).2
    rw [jump_pc]
    exact htop.trans (by decide)
  stack k hk := h.stack k (lt_of_lt_of_le hk (Nat.sub_le _ _))

/-- The address that CALL pushes is that of the instruction after it. -/
theorem call_inv (nnn : Addr) (hsp : s.sp.val < 16) (hpc : s.pc.toNat ≤ 4094) (h : Inv s) :
    Inv (State.jump { s with stack := s.stack.set s.sp.val s.npc, sp := ⟨s.sp.val + 1, by omega⟩ } (zextAddr nnn)) where
  memory := h.memory
  pc := by
    rw [jump_pc, zextAddr_toNat]
    omega
  stack k hk := by
    have hlive : k.val < s.sp.val + 1 := hk
    have hnpc := npc_toNat hpc
    rw [jump_stack, Fin.getElem_fin, Vector.getElem_set]
    split
    case isTrue => omega
    case isFalse hne => exact h.stack k (by omega)

theorem jpV0_target_toNat (s : State) (nnn : Addr) :
    (BitVec.ofNat 16 (nnn.toNat + (s.getV 0).toNat)).toNat = nnn.toNat + (s.getV 0).toNat := by
  rw [BitVec.toNat_ofNat, Nat.mod_eq_of_lt (by omega)]

theorem exec_jpV0Nnn (s : State) (nnn : Addr) :
    exec (.jpV0Nnn nnn) s = .next (s.jump (BitVec.ofNat 16 (nnn.toNat + (s.getV 0).toNat))) := rfl

/-! ### Every instruction, every step -/

theorem exec_keeps_inv {i : Instr} (hpc : s.pc.toNat ≤ 4094) (h : Inv s) (hexec : exec i s = .next t) : Inv t := by
  obtain ⟨f, -, rfl⟩ | hc := raises_or_completes hexec
  · exact raise_inv f (.inl hpc) h
  cases hi : setsPc i with
  | false => exact completes_inv_of_not_setsPc hi hpc hc h
  | true =>
    cases i
    case ret =>
      by_cases hsp : s.sp.val = 0
      · cases (exec_ret_of_empty s hsp).symm.trans hexec
        exact raise_inv _ (.inl hpc) h
      · cases (exec_ret_of_pos s hsp).symm.trans hexec
        exact ret_inv hsp h
    case call nnn =>
      by_cases hsp : s.sp.val = 16
      · cases (exec_call_of_full s nnn hsp).symm.trans hexec
        exact raise_inv _ (.inl hpc) h
      · have hlt : s.sp.val < 16 := by omega
        cases (exec_call_of_lt s nnn hlt).symm.trans hexec
        exact call_inv nnn hlt hpc h
    case jp nnn =>
      cases (exec_jp s nnn).symm.trans hexec
      exact jump_inv _ (by rw [zextAddr_toNat]; omega) h
    case jpV0Nnn nnn =>
      cases (exec_jpV0Nnn s nnn).symm.trans hexec
      exact jump_inv _ (by rw [jpV0_target_toNat]; omega) h
    all_goals cases hi

/-- Settles O5: by the stage that ends the step. Past the bound on `pc` no fault but that of the fetch is found, and it
keeps `pc`; below it, two or four more, a live return address and NNN + V0 all stay in bounds. -/
theorem stepKeepsInvariant : Obligations.StepKeepsInvariant := by
  intro s t h hstep
  obtain ⟨-, hs⟩ | ⟨hpc, -, hs⟩ | ⟨hpc, i, -, hs⟩ := step_cases s
  · cases hs.symm.trans hstep
    exact raise_inv _ (.inr rfl) h
  · cases hs.symm.trans hstep
    exact raise_inv _ (.inl hpc) h
  · exact exec_keeps_inv hpc h (hs.symm.trans hstep)

/-! ### Every command, every schedule -/

/-- A ROM that fits ends at the last cell of memory (R152). -/
theorem load_inv (rom : List Byte) (h : Inv s) : Inv (s.load rom).1 := by
  rw [State.load]
  split
  case isTrue => exact h
  case isFalse hfits =>
    have hin : 0x200 + rom.length ≤ 4096 := by
      rw [romMax] at hfits
      omega
    rw [setCells_eq]
    exact ⟨setCells_wf s _ rom hin h.memory, h.pc, h.stack⟩

/-- What a command that is answered leaves of a running machine. -/
theorem issue_running {c : Command} {e : Device} {r : Response} (h : issue c (.running s) = .next (e, r)) :
    ∃ t, e = .running t ∧ (t = s.resetCommand ∨ (∃ rom, t = (s.load rom).1) ∨ step s = .next t ∨ t = s.tickTimers ∨
      (∃ k p, t = s.setKey k p) ∨ t = s) := by
  cases c
  case reset =>
    cases h
    exact ⟨_, rfl, .inl rfl⟩
  case load rom =>
    cases h
    exact ⟨_, rfl, .inr (.inl ⟨rom, rfl⟩)⟩
  case step =>
    obtain ⟨t, ht⟩ := stepAlwaysContinues s
    rw [issue, ht] at h
    cases h
    exact ⟨t, rfl, .inr (.inr (.inl ht))⟩
  case tickTimers =>
    cases h
    exact ⟨_, rfl, .inr (.inr (.inr (.inl rfl)))⟩
  case setKey k p =>
    rw [issue] at h
    split at h
    case isTrue hk =>
      cases h
      exact ⟨_, rfl, .inr (.inr (.inr (.inr (.inl ⟨_, p, rfl⟩))))⟩
    case isFalse => cases h
  all_goals
    cases h
    exact ⟨s, rfl, .inr (.inr (.inr (.inr (.inr rfl))))⟩

/-- Settles O58: R27 for each of the seven commands. -/
theorem commandsBeforeResetRefused : Obligations.CommandsBeforeResetRefused := by
  intro cfg c hc
  cases c
  case reset => exact absurd rfl hc
  all_goals rfl

theorem issue_powerOn {cfg : Config} {c : Command} {e : Device} {r : Response}
    (h : issue c (.powerOn cfg) = .next (e, r)) : c = .reset ∧ e = .running (State.resetWith cfg 0) := by
  by_cases hc : c = .reset
  · subst hc
    cases h
    exact ⟨rfl, rfl⟩
  · cases (commandsBeforeResetRefused cfg c hc).symm.trans h

theorem runSchedule_cons {c : Command} {cs : List Command} {d e : Device} {rs : List Response}
    (h : runSchedule (c :: cs) d = .next (e, rs)) :
    ∃ d' r rs', issue c d = .next (d', r) ∧ runSchedule cs d' = .next (e, rs') ∧ rs = r :: rs' := by
  rw [runSchedule] at h
  cases hissue : issue c d with
  | fault f => rw [hissue] at h; cases h
  | refused r => rw [hissue] at h; cases h
  | next dr =>
    obtain ⟨d', r⟩ := dr
    rw [hissue] at h
    cases hrun : runSchedule cs d' with
    | fault f => simp only [hrun] at h; cases h
    | refused r => simp only [hrun] at h; cases h
    | next ers =>
      obtain ⟨e', rs'⟩ := ers
      simp only [hrun] at h
      cases h
      exact ⟨d', r, rs', rfl, hrun, rfl⟩

/-- What every command keeps, every schedule keeps. -/
theorem runSchedule_keeps {P : Device → Prop} (hissue : ∀ c d e r, P d → issue c d = .next (e, r) → P e)
    (cs : List Command) (d e : Device) (rs : List Response) (hd : P d) (h : runSchedule cs d = .next (e, rs)) :
    P e := by
  induction cs generalizing d rs with
  | nil =>
    cases h
    exact hd
  | cons c cs ih =>
    obtain ⟨d', r, rs', hc, hrest, -⟩ := runSchedule_cons h
    exact ih d' rs' (hissue c d d' r hd hc) hrest

theorem issue_keeps_inv (c : Command) (d e : Device) (r : Response) (hd : Device.Inv d)
    (h : issue c d = .next (e, r)) : Device.Inv e := by
  cases d with
  | powerOn cfg =>
    obtain ⟨-, rfl⟩ := issue_powerOn h
    exact resetWith_inv cfg 0
  | running s =>
    have hs : Inv s := hd
    obtain ⟨t, rfl, rfl | ⟨rom, rfl⟩ | hstep | rfl | ⟨k, p, rfl⟩ | rfl⟩ := issue_running h
    · exact resetWith_inv s.cfg s.draws
    · exact load_inv rom hs
    · exact stepKeepsInvariant s t hs hstep
    · exact ⟨hs.memory, hs.pc, hs.stack⟩
    · exact ⟨hs.memory, hs.pc, hs.stack⟩
    · exact hs

/-- Settles O6, by induction on the commands. -/
theorem everyScheduleKeepsInvariant : Obligations.EveryScheduleKeepsInvariant := by
  intro cs d e rs hd h
  exact runSchedule_keeps issue_keeps_inv cs d e rs hd h

end Sys2Proof.Machine
end

section
/-! The decoder and the encoder undo each other, and both follow the opcode table (30_encoding.md R52 to R62). -/

namespace Sys2Proof

/-! ### A word whose fixed fields are known -/

section
variable {op : Word} {f : BitVec 4}

theorem wordNNN_eq (hf : family op = f) : wordNNN f (fieldNNN op) = op := by
  rw [← hf, ← eq_wordNNN op]

theorem wordXKK_eq_of_family (hf : family op = f) : wordXKK f (fieldX op) (fieldKK op) = op := by
  rw [← hf, ← eq_wordXKK op]

theorem wordXKK_eq {kk : Byte} (hf : family op = f) (hk : fieldKK op = kk) : wordXKK f (fieldX op) kk = op := by
  rw [← hk, wordXKK_eq_of_family hf]

theorem wordXYN_eq_of_family (hf : family op = f) : wordXYN f (fieldX op) (fieldY op) (fieldN op) = op := by
  rw [← hf, ← eq_wordXYN op]

theorem wordXYN_eq {n : Fin 16} (hf : family op = f) (hn : fieldN op = n) :
    wordXYN f (fieldX op) (fieldY op) n = op := by
  rw [← hn, wordXYN_eq_of_family hf]

end

/-! ### Decoding an encoded instruction -/

theorem decodeRow_encode (i : Instr) : decodeRow (encode i) = some i := by
  cases i
  case cls | ret => rfl
  all_goals simp [encode, decodeRow, decodeAlu, decodeKey, decodeMisc]

theorem decode_eq_ok_iff (p : Profile) (op : Word) (i : Instr) :
    decode p op = .ok i ↔ decodeRow op = some i ∧ i.wellFormed p = true := by
  rw [decode]
  cases decodeRow op with
  | none => simp
  | some j =>
    dsimp only
    split
    case isTrue h =>
      simp only [Except.ok.injEq, Option.some.injEq]
      exact ⟨fun hj => ⟨hj, hj ▸ h⟩, And.left⟩
    case isFalse h =>
      simp only [reduceCtorEq, Option.some.injEq, false_iff, not_and]
      exact fun hj => hj ▸ h

theorem decode_encode (p : Profile) (i : Instr) (h : i.wellFormed p = true) : decode p (encode i) = .ok i :=
  (decode_eq_ok_iff p _ i).2 ⟨decodeRow_encode i, h⟩

theorem decodeBytes_encodeBytes (p : Profile) (i : Instr) (rest : List Byte) (h : i.wellFormed p = true) :
    decodeBytes p (encodeBytes i ++ rest) = .ok (i, rest) := by
  rw [encodeBytes, List.cons_append, List.cons_append, List.nil_append, decodeBytes, bytes_append, decode_encode p i h]

/-- Settles O7: every field that a format packs reads back, and the row has no other. -/
theorem decodeOfEncode : Obligations.DecodeOfEncode := by
  intro p i rest h
  exact ⟨decode_encode p i h, decodeBytes_encodeBytes p i rest h⟩

/-- Settles O11, word by word: each is a word of both profiles, or of FULL where the statement says so. -/
theorem sampleWordsDecode : Obligations.SampleWordsDecode := by
  intro p
  refine ⟨decode_encode p .ret ?_, decode_encode p (.jp 0x234) ?_, decode_encode p (.ldVxKk 0xA 0x2B) ?_,
    decode_encode p (.drw 1 2 5) ?_, ?full⟩
  case full =>
    rintro rfl
    exact ⟨decode_encode _ (.sneVxKk 0xC 0x07) rfl, decode_encode _ (.subnVxVy 3 0xE) rfl,
      decode_encode _ (.sknpVx 5) rfl, decode_encode _ (.ldMemVx 6) rfl⟩
  all_goals cases p <;> rfl

/-! ### Encoding a decoded instruction -/

section
variable {op : Word} {i : Instr}

theorem encode_of_decodeAlu (hf : family op = 0x8) (h : decodeAlu op = some i) : encode i = op := by
  rw [decodeAlu] at h
  split at h
  case h_10 => cases h
  all_goals
    rename_i hn
    cases h
    exact wordXYN_eq hf (Fin.ext hn)

theorem encode_of_decodeKey (hf : family op = 0xE) (h : decodeKey op = some i) : encode i = op := by
  rw [decodeKey] at h
  split at h
  case h_3 => cases h
  all_goals
    rename_i hk
    cases h
    exact wordXKK_eq hf (BitVec.eq_of_toNat_eq hk)

theorem encode_of_decodeMisc (hf : family op = 0xF) (h : decodeMisc op = some i) : encode i = op := by
  rw [decodeMisc] at h
  split at h
  case h_10 => cases h
  all_goals
    rename_i hk
    cases h
    exact wordXKK_eq hf (BitVec.eq_of_toNat_eq hk)

theorem family_eq_of_toNat {f : BitVec 4} (h : (family op).toNat = f.toNat) : family op = f := BitVec.eq_of_toNat_eq h

/-- The fields that the row's instruction takes from the opcode are all the fields that the row does not fix. -/
theorem encode_of_decodeRow (h : decodeRow op = some i) : encode i = op := by
  rw [decodeRow] at h
  split at h
  case h_1 =>
    split at h
    · cases h
      symm
      assumption
    · split at h
      · cases h
        symm
        assumption
      · cases h
  case h_2 | h_3 | h_11 | h_12 =>
    rename_i hf
    cases h
    exact wordNNN_eq (family_eq_of_toNat hf)
  case h_4 | h_5 | h_7 | h_8 | h_13 =>
    rename_i hf
    cases h
    exact wordXKK_eq_of_family (family_eq_of_toNat hf)
  case h_6 | h_10 =>
    rename_i hf
    split at h
    case isTrue hn =>
      cases h
      exact wordXYN_eq (family_eq_of_toNat hf) hn
    case isFalse => cases h
  case h_14 =>
    rename_i hf
    cases h
    exact wordXYN_eq_of_family (family_eq_of_toNat hf)
  case h_9 =>
    rename_i hf
    exact encode_of_decodeAlu (family_eq_of_toNat hf) h
  case h_15 =>
    rename_i hf
    exact encode_of_decodeKey (family_eq_of_toNat hf) h
  case h_16 =>
    have hlt := (family op).isLt
    have hf : (family op).toNat = 15 := by
      simp only [imp_false] at *
      omega
    exact encode_of_decodeMisc (family_eq_of_toNat hf) h

end

/-- Settles O8: the profile's check is the one thing that the decoder adds to the rows. -/
theorem encodeOfDecode : Obligations.EncodeOfDecode := by
  intro p op i h
  obtain ⟨hrow, hwf⟩ := (decode_eq_ok_iff p op i).1 h
  exact ⟨encode_of_decodeRow hrow, hwf⟩

/-! ### The opcode table (R54, R55) -/

section
variable {op : Word}

theorem family_of_and_family {f : BitVec 4} (h : op &&& 0xF000 = wordNNN f 0) : family op = f := by
  rw [eq_wordNNN op, wordNNN_and] at h
  simpa using congrArg family h

theorem fields_of_and_XYN {f : BitVec 4} {n : Fin 16} (h : op &&& 0xF00F = wordXYN f 0 0 n) :
    family op = f ∧ fieldN op = n := by
  rw [eq_wordXYN op, wordXYN_and] at h
  exact ⟨by simpa using congrArg family h, by simpa using congrArg fieldN h⟩

theorem fields_of_and_XKK {f : BitVec 4} {kk : Byte} (h : op &&& 0xF0FF = wordXKK f 0 kk) :
    family op = f ∧ fieldKK op = kk := by
  rw [eq_wordXKK op, wordXKK_and] at h
  exact ⟨by simpa using congrArg family h, by simpa using congrArg fieldKK h⟩

theorem wordNNN_of_admits {f : BitVec 4} (h : op &&& 0xF000 = wordNNN f 0) : wordNNN f (fieldNNN op) = op :=
  wordNNN_eq (family_of_and_family h)

theorem wordXKK_of_admits_family {f : BitVec 4} (h : op &&& 0xF000 = wordNNN f 0) :
    wordXKK f (fieldX op) (fieldKK op) = op := wordXKK_eq_of_family (family_of_and_family h)

theorem wordXYN_of_admits_family {f : BitVec 4} (h : op &&& 0xF000 = wordNNN f 0) :
    wordXYN f (fieldX op) (fieldY op) (fieldN op) = op := wordXYN_eq_of_family (family_of_and_family h)

theorem wordXYN_of_admits {f : BitVec 4} {n : Fin 16} (h : op &&& 0xF00F = wordXYN f 0 0 n) :
    wordXYN f (fieldX op) (fieldY op) n = op := wordXYN_eq (fields_of_and_XYN h).1 (fields_of_and_XYN h).2

theorem wordXKK_of_admits {f : BitVec 4} {kk : Byte} (h : op &&& 0xF0FF = wordXKK f 0 kk) :
    wordXKK f (fieldX op) kk = op := wordXKK_eq (fields_of_and_XKK h).1 (fields_of_and_XKK h).2

open Laws.FitsRow in
/-- An opcode with the fixed bits of a row is the encoding of an instruction of that row. -/
theorem exists_encode_of_admits (r : OpcodeRow) (hr : r ∈ opcodeRows) (h : op &&& r.mask = r.value) :
    ∃ i, row i = r ∧ encode i = op := by
  simp only [opcodeRows, List.cons_append, List.nil_append, List.mem_cons, List.not_mem_nil, or_false] at hr
  rcases hr with rfl | rfl | rfl | rfl | rfl | rfl | rfl | rfl | rfl | rfl | rfl | rfl | rfl | rfl | rfl | rfl | rfl |
    rfl | rfl | rfl | rfl | rfl | rfl | rfl | rfl | rfl | rfl | rfl | rfl | rfl | rfl | rfl | rfl | rfl
  · exact ⟨.cls, rfl, h.symm.trans (BitVec.and_allOnes (x := op))⟩
  · exact ⟨.ret, rfl, h.symm.trans (BitVec.and_allOnes (x := op))⟩
  · exact ⟨.jp _, rfl, wordNNN_of_admits h⟩
  · exact ⟨.call _, rfl, wordNNN_of_admits h⟩
  · exact ⟨.ldVxKk _ _, rfl, wordXKK_of_admits_family h⟩
  · exact ⟨.addVxKk _ _, rfl, wordXKK_of_admits_family h⟩
  · exact ⟨.ldINnn _, rfl, wordNNN_of_admits h⟩
  · exact ⟨.drw _ _ _, rfl, wordXYN_of_admits_family h⟩
  · exact ⟨.seVxKk _ _, rfl, wordXKK_of_admits_family h⟩
  · exact ⟨.sneVxKk _ _, rfl, wordXKK_of_admits_family h⟩
  · exact ⟨.seVxVy _ _, rfl, wordXYN_of_admits h⟩
  · exact ⟨.ldVxVy _ _, rfl, wordXYN_of_admits h⟩
  · exact ⟨.orVxVy _ _, rfl, wordXYN_of_admits h⟩
  · exact ⟨.andVxVy _ _, rfl, wordXYN_of_admits h⟩
  · exact ⟨.xorVxVy _ _, rfl, wordXYN_of_admits h⟩
  · exact ⟨.addVxVy _ _, rfl, wordXYN_of_admits h⟩
  · exact ⟨.subVxVy _ _, rfl, wordXYN_of_admits h⟩
  · exact ⟨.shrVxVy _ _, rfl, wordXYN_of_admits h⟩
  · exact ⟨.subnVxVy _ _, rfl, wordXYN_of_admits h⟩
  · exact ⟨.shlVxVy _ _, rfl, wordXYN_of_admits h⟩
  · exact ⟨.sneVxVy _ _, rfl, wordXYN_of_admits h⟩
  · exact ⟨.jpV0Nnn _, rfl, wordNNN_of_admits h⟩
  · exact ⟨.rndVxKk _ _, rfl, wordXKK_of_admits_family h⟩
  · exact ⟨.skpVx _, rfl, wordXKK_of_admits h⟩
  · exact ⟨.sknpVx _, rfl, wordXKK_of_admits h⟩
  · exact ⟨.ldVxDt _, rfl, wordXKK_of_admits h⟩
  · exact ⟨.ldVxK _, rfl, wordXKK_of_admits h⟩
  · exact ⟨.ldDtVx _, rfl, wordXKK_of_admits h⟩
  · exact ⟨.ldStVx _, rfl, wordXKK_of_admits h⟩
  · exact ⟨.addIVx _, rfl, wordXKK_of_admits h⟩
  · exact ⟨.ldFVx _, rfl, wordXKK_of_admits h⟩
  · exact ⟨.ldBVx _, rfl, wordXKK_of_admits h⟩
  · exact ⟨.ldMemVx _, rfl, wordXKK_of_admits h⟩
  · exact ⟨.ldVxMem _, rfl, wordXKK_of_admits h⟩

end

end Sys2Proof
end

section
/-! The decoder against the opcode table, and what it leaves unrecognized (30_encoding.md R54 to R57). -/

namespace Sys2Proof

open Laws.FitsRow

/-! ### The rows of the table -/

/-- The lemma of each constructor. -/
theorem fitsRow : ∀ i : Instr, Statement i
  | .cls => Laws.FitsRow.cls
  | .ret => Laws.FitsRow.ret
  | .jp _ => Laws.FitsRow.jp _
  | .call _ => Laws.FitsRow.call _
  | .ldVxKk _ _ => Laws.FitsRow.ldVxKk _ _
  | .addVxKk _ _ => Laws.FitsRow.addVxKk _ _
  | .ldINnn _ => Laws.FitsRow.ldINnn _
  | .drw _ _ _ => Laws.FitsRow.drw _ _ _
  | .seVxKk _ _ => Laws.FitsRow.seVxKk _ _
  | .sneVxKk _ _ => Laws.FitsRow.sneVxKk _ _
  | .seVxVy _ _ => Laws.FitsRow.seVxVy _ _
  | .ldVxVy _ _ => Laws.FitsRow.ldVxVy _ _
  | .orVxVy _ _ => Laws.FitsRow.orVxVy _ _
  | .andVxVy _ _ => Laws.FitsRow.andVxVy _ _
  | .xorVxVy _ _ => Laws.FitsRow.xorVxVy _ _
  | .addVxVy _ _ => Laws.FitsRow.addVxVy _ _
  | .subVxVy _ _ => Laws.FitsRow.subVxVy _ _
  | .shrVxVy _ _ => Laws.FitsRow.shrVxVy _ _
  | .subnVxVy _ _ => Laws.FitsRow.subnVxVy _ _
  | .shlVxVy _ _ => Laws.FitsRow.shlVxVy _ _
  | .sneVxVy _ _ => Laws.FitsRow.sneVxVy _ _
  | .jpV0Nnn _ => Laws.FitsRow.jpV0Nnn _
  | .rndVxKk _ _ => Laws.FitsRow.rndVxKk _ _
  | .skpVx _ => Laws.FitsRow.skpVx _
  | .sknpVx _ => Laws.FitsRow.sknpVx _
  | .ldVxDt _ => Laws.FitsRow.ldVxDt _
  | .ldVxK _ => Laws.FitsRow.ldVxK _
  | .ldDtVx _ => Laws.FitsRow.ldDtVx _
  | .ldStVx _ => Laws.FitsRow.ldStVx _
  | .addIVx _ => Laws.FitsRow.addIVx _
  | .ldFVx _ => Laws.FitsRow.ldFVx _
  | .ldBVx _ => Laws.FitsRow.ldBVx _
  | .ldMemVx _ => Laws.FitsRow.ldMemVx _
  | .ldVxMem _ => Laws.FitsRow.ldVxMem _

/-- A profile has the row of an instruction iff it has the instruction. -/
theorem row_mem_profileRows (p : Profile) (i : Instr) : row i ∈ profileRows p ↔ i.wellFormed p = true := by
  obtain ⟨hmem, -, hsource8⟩ := fitsRow i
  cases p with
  | source8 => simp [profileRows, hmem, hsource8]
  | full => simp [profileRows, hmem, Instr.wellFormed]

theorem profileRows_subset (p : Profile) {r : OpcodeRow} (hr : r ∈ profileRows p) : r ∈ opcodeRows := by
  cases p with
  | source8 => exact (List.mem_filter.1 hr).1
  | full => exact hr

/-- Settles O9: an opcode of a row is the encoding of one instruction of that row, which decoding gives back. So a row
of the profile decodes, and two rows of one opcode are the row of one instruction. -/
theorem decoderFollowsOpcodeTable : Obligations.DecoderFollowsOpcodeTable := by
  refine ⟨fun p op => ⟨?row, ?decodes⟩, fun op r hr r' hr' h h' => ?overlap⟩
  case row =>
    rintro ⟨i, hi⟩
    obtain ⟨rfl, hwf⟩ := encodeOfDecode p op i hi
    obtain ⟨-, hadmits, -⟩ := fitsRow i
    exact ⟨row i, (row_mem_profileRows p i).2 hwf, beq_iff_eq.1 hadmits⟩
  case decodes =>
    rintro ⟨r, hr, h⟩
    obtain ⟨i, rfl, rfl⟩ := exists_encode_of_admits r (profileRows_subset p hr) h
    exact ⟨i, decode_encode p i ((row_mem_profileRows p i).1 hr)⟩
  case overlap =>
    obtain ⟨i, rfl, rfl⟩ := exists_encode_of_admits r hr h
    obtain ⟨j, rfl, hj⟩ := exists_encode_of_admits r' hr' h'
    have hij : some j = some i := by rw [← decodeRow_encode j, hj, decodeRow_encode]
    cases hij
    rfl

/-! ### Unrecognized values (R56) -/

section
variable (op : Word)

theorem decodeAlu_eq_none_iff :
    decodeAlu op = none ↔ fieldN op ∈ [(0x8 : Fin 16), 0x9, 0xA, 0xB, 0xC, 0xD, 0xF] := by
  rw [decodeAlu]
  generalize fieldN op = n
  fin_cases n <;> simp

theorem decodeKey_eq_none_iff : decodeKey op = none ↔ fieldKK op ∉ [0x9E#8, 0xA1#8] := by
  rw [decodeKey]
  split <;> simp_all [← BitVec.toNat_inj]

theorem decodeMisc_eq_none_iff : decodeMisc op = none ↔
    fieldKK op ∉ [0x07#8, 0x0A#8, 0x15#8, 0x18#8, 0x1E#8, 0x29#8, 0x33#8, 0x55#8, 0x65#8] := by
  rw [decodeMisc]
  split <;> simp_all [← BitVec.toNat_inj]

theorem decode_full_error_iff : decode .full op = .error .unrecognizedOpcode ↔ decodeRow op = none := by
  rw [decode]
  cases decodeRow op <;> simp [Instr.wellFormed]

theorem decode_source8_error_iff : decode .source8 op = .error .unrecognizedOpcode ↔
    ∀ i, decodeRow op = some i → i.inSource8 = false := by
  rw [decode]
  cases decodeRow op with
  | none => simp
  | some i => cases h : i.inSource8 <;> simp [Instr.wellFormed, h]

theorem inSource8_of_decodeAlu (i : Instr) (h : decodeAlu op = some i) : i.inSource8 = false := by
  rw [decodeAlu] at h
  split at h <;> cases h <;> rfl

theorem inSource8_of_decodeKey (i : Instr) (h : decodeKey op = some i) : i.inSource8 = false := by
  rw [decodeKey] at h
  split at h <;> cases h <;> rfl

theorem inSource8_of_decodeMisc (i : Instr) (h : decodeMisc op = some i) : i.inSource8 = false := by
  rw [decodeMisc] at h
  split at h <;> cases h <;> rfl

theorem family_cases (f : BitVec 4) : f = 0x0 ∨ f = 0x1 ∨ f = 0x2 ∨ f = 0x3 ∨ f = 0x4 ∨ f = 0x5 ∨ f = 0x6 ∨ f = 0x7 ∨
    f = 0x8 ∨ f = 0x9 ∨ f = 0xA ∨ f = 0xB ∨ f = 0xC ∨ f = 0xD ∨ f = 0xE ∨ f = 0xF := by
  decide +revert

end

/-- Settles O10, family by family: one that is no matter of sub-fields decodes whole or not at all, and the others
decode as their own decoder says. -/
theorem unrecognizedValuesPerFamily : Obligations.UnrecognizedValuesPerFamily := by
  intro op
  rw [decode_source8_error_iff, decode_full_error_iff]
  rcases family_cases (family op) with
    hf | hf | hf | hf | hf | hf | hf | hf | hf | hf | hf | hf | hf | hf | hf | hf
  · by_cases hcls : op = 0x00E0#16
    · subst hcls
      simp [decodeRow, hf, Instr.inSource8]
    · by_cases hret : op = 0x00EE#16
      · subst hret
        simp [decodeRow, hf, Instr.inSource8]
      · simp [decodeRow, hf, hcls, hret]
  · simp [decodeRow, hf, Instr.inSource8]
  · simp [decodeRow, hf, Instr.inSource8]
  · simp [decodeRow, hf, Instr.inSource8]
  · simp [decodeRow, hf, Instr.inSource8]
  · by_cases hn : fieldN op = 0 <;> simp [decodeRow, hf, hn, Instr.inSource8]
  · simp [decodeRow, hf, Instr.inSource8]
  · simp [decodeRow, hf, Instr.inSource8]
  · simpa [decodeRow, hf, decodeAlu_eq_none_iff] using inSource8_of_decodeAlu op
  · by_cases hn : fieldN op = 0 <;> simp [decodeRow, hf, hn, Instr.inSource8]
  · simp [decodeRow, hf, Instr.inSource8]
  · simp [decodeRow, hf, Instr.inSource8]
  · simp [decodeRow, hf, Instr.inSource8]
  · simp [decodeRow, hf, Instr.inSource8]
  · simpa [decodeRow, hf, decodeKey_eq_none_iff] using inSource8_of_decodeKey op
  · simpa [decodeRow, hf, decodeMisc_eq_none_iff] using inSource8_of_decodeMisc op

end Sys2Proof
end

section
/-! Two runs of the machine side by side: one under the other FAULT_PC, and one with other keys and timers
(60_exceptions.md R175; 10_state.md R17 to R19). -/

namespace Sys2Proof.Machine

variable {s t : State}

/-! ### FAULT_PC -/

theorem setCells_withFaultPc (s : State) (q : FaultPc) (a : Nat) (bs : List Byte) :
    (s.withFaultPc q).setCells a bs = (s.setCells a bs).withFaultPc q := by
  induction bs generalizing s a with
  | nil => rfl
  | cons b bs ih => exact ih (s.setCell a b) (a + 1)

theorem setLogic_withFaultPc (s : State) (q : FaultPc) (x : RegIx) (b : Byte) :
    (s.withFaultPc q).setLogic x b = (s.setLogic x b).withFaultPc q := by
  cases h : s.cfg.logicVfReset with
  | true =>
    rw [setLogic_of_reset s x b h, setLogic_of_reset (s.withFaultPc q) x b h]
    rfl
  | false =>
    rw [setLogic_of_no_reset s x b h, setLogic_of_no_reset (s.withFaultPc q) x b h]
    rfl

/-- An instruction reads FAULT_PC only to raise a fault. -/
theorem exec_withFaultPc (q : FaultPc) {i : Instr} (h : exec i s = .next t) (hok : t.outcome = .ok) :
    exec i (s.withFaultPc q) = .next (t.withFaultPc q) := by
  have hfault : ∀ f, ¬Raises i s f := fun f hf => by
    cases hok.symm.trans ((outcome_eq_fault_iff h).2 hf)
  have hrun : ¬RunLeavesMemory i s := fun hout => hfault _ (.run hout)
  cases i
  case ret =>
    have hsp : s.sp.val ≠ 0 := fun hsp => hfault _ (.underflow hsp)
    cases (exec_ret_of_pos s hsp).symm.trans h
    exact exec_ret_of_pos (s.withFaultPc q) hsp
  case call nnn =>
    have hsp : s.sp.val ≠ 16 := fun hsp => hfault _ (.overflow nnn hsp)
    have hlt : s.sp.val < 16 := by omega
    cases (exec_call_of_lt s nnn hlt).symm.trans h
    exact exec_call_of_lt (s.withFaultPc q) nnn hlt
  case drw x y n =>
    cases (exec_drw_of_in_memory s x y n hrun).symm.trans h
    exact exec_drw_of_in_memory (s.withFaultPc q) x y n hrun
  case ldBVx x =>
    cases (exec_ldBVx_of_in_memory s x hrun).symm.trans h
    rw [exec_ldBVx_of_in_memory (s.withFaultPc q) x hrun, setCells_withFaultPc]
    rfl
  case ldMemVx x =>
    cases (exec_ldMemVx_of_in_memory s x hrun).symm.trans h
    rw [exec_ldMemVx_of_in_memory (s.withFaultPc q) x hrun, setCells_withFaultPc]
    rfl
  case ldVxMem x =>
    cases (exec_ldVxMem_of_in_memory s x hrun).symm.trans h
    exact exec_ldVxMem_of_in_memory (s.withFaultPc q) x hrun
  case orVxVy | andVxVy | xorVxVy =>
    cases h
    exact congrArg (fun u : State => Host.Outcome.next u.advance) (setLogic_withFaultPc s q _ _)
  case ldVxK x =>
    cases hkey : s.leastKey with
    | some k =>
      cases (exec_ldVxK_of_key s x k hkey).symm.trans h
      exact exec_ldVxK_of_key (s.withFaultPc q) x k hkey
    | none =>
      cases (exec_ldVxK_of_no_key s x hkey).symm.trans h
      exact exec_ldVxK_of_no_key (s.withFaultPc q) x hkey
  all_goals
    cases h
    rfl

theorem step_withFaultPc (q : FaultPc) (h : step s = .next t) (hok : t.outcome = .ok) :
    step (s.withFaultPc q) = .next (t.withFaultPc q) := by
  obtain ⟨-, hs⟩ | ⟨-, -, hs⟩ | ⟨hpc, i, hi, hs⟩ := step_cases s
  · cases hs.symm.trans h
    cases hok
  · cases hs.symm.trans h
    cases hok
  · rw [step_of_decode_ok (s.withFaultPc q) hpc i hi]
    exact exec_withFaultPc q (hs.symm.trans h) hok

theorem load_withFaultPc (s : State) (q : FaultPc) (rom : List Byte) :
    (s.withFaultPc q).load rom = ((s.load rom).1.withFaultPc q, (s.load rom).2) := by
  unfold State.load
  split
  case isTrue => rfl
  case isFalse => rw [setCells_withFaultPc]

/-- A command whose response is no fault is answered alike under each FAULT_PC. -/
theorem issue_withFaultPc (q : FaultPc) {c : Command} {d e : Device} {r : Response} (h : issue c d = .next (e, r))
    (hr : ∀ f, r ≠ .stepped (.fault f)) : issue c (d.withFaultPc q) = .next (e.withFaultPc q, r) := by
  cases d with
  | powerOn cfg =>
    obtain ⟨rfl, -⟩ := issue_powerOn h
    cases h
    rfl
  | running s =>
    cases c
    case step =>
      obtain ⟨t, ht⟩ := stepAlwaysContinues s
      rw [issue, ht] at h
      cases h
      have hok : t.outcome = .ok := by
        cases hout : t.outcome with
        | ok => rfl
        | fault f => exact absurd (congrArg Response.stepped hout) (hr f)
      simp only [Device.withFaultPc, issue, step_withFaultPc q ht hok]
      rfl
    case load rom =>
      cases h
      simp only [Device.withFaultPc, issue, load_withFaultPc]
    case setKey k p =>
      rw [issue] at h
      split at h
      case isTrue hk =>
        cases h
        simp only [Device.withFaultPc, issue, dif_pos hk]
        rfl
      case isFalse => cases h
    all_goals
      cases h
      rfl

/-- Settles O23, by induction on the commands. -/
theorem faultPcUnobservableWithoutFaults : Obligations.FaultPcUnobservableWithoutFaults := by
  intro cs d e rs q h hsafe
  induction cs generalizing d rs with
  | nil =>
    cases h
    rfl
  | cons c cs ih =>
    obtain ⟨d', r, rs', hc, hrest, rfl⟩ := runSchedule_cons h
    have hfirst := issue_withFaultPc q hc fun f hf => hsafe f (hf ▸ List.mem_cons_self)
    have hothers := ih d' rs' hrest fun f hf => hsafe f (List.mem_cons_of_mem r hf)
    simp only [runSchedule, hfirst, hothers]

/-! ### Keys and timers in SOURCE8 -/

/-- The machine with other keys and timers. -/
def State.withKeysAndTimers (s : State) (k : Vector Bool 16) (d u : Byte) : State :=
  { s with key := k, dt := d, st := u }

/-- None of the eight instructions of R54 reads a key or a timer. -/
theorem exec_withKeysAndTimers (k : Vector Bool 16) (d u : Byte) {i : Instr} (hi : i.inSource8 = true)
    (h : exec i s = .next t) : exec i (s.withKeysAndTimers k d u) = .next (t.withKeysAndTimers k d u) := by
  cases i
  case ret =>
    by_cases hsp : s.sp.val = 0
    · cases (exec_ret_of_empty s hsp).symm.trans h
      exact exec_ret_of_empty (s.withKeysAndTimers k d u) hsp
    · cases (exec_ret_of_pos s hsp).symm.trans h
      exact exec_ret_of_pos (s.withKeysAndTimers k d u) hsp
  case call nnn =>
    by_cases hsp : s.sp.val = 16
    · cases (exec_call_of_full s nnn hsp).symm.trans h
      exact exec_call_of_full (s.withKeysAndTimers k d u) nnn hsp
    · have hlt : s.sp.val < 16 := by omega
      cases (exec_call_of_lt s nnn hlt).symm.trans h
      exact exec_call_of_lt (s.withKeysAndTimers k d u) nnn hlt
  case drw x y n =>
    by_cases hrun : RunLeavesMemory (.drw x y n) s
    · cases (exec_of_run_leaves_memory s _ hrun).symm.trans h
      exact exec_of_run_leaves_memory (s.withKeysAndTimers k d u) _ hrun
    · cases (exec_drw_of_in_memory s x y n hrun).symm.trans h
      exact exec_drw_of_in_memory (s.withKeysAndTimers k d u) x y n hrun
  case cls | jp | ldVxKk | addVxKk | ldINnn =>
    cases h
    rfl
  all_goals cases hi

theorem inSource8_of_decode {op : Word} {i : Instr} (hp : s.cfg.profile = .source8)
    (h : decode s.cfg.profile op = .ok i) : i.inSource8 = true := by
  obtain ⟨-, hwf⟩ := (decode_eq_ok_iff _ _ _).1 h
  rwa [hp] at hwf

/-- Settles O24: the fetch and the decoding read neither, and so does the instruction that is decoded. -/
theorem source8IgnoresKeysAndTimers : Obligations.Source8IgnoresKeysAndTimers := by
  intro s t k d u hp h
  change step (s.withKeysAndTimers k d u) = .next (t.withKeysAndTimers k d u)
  obtain ⟨hpc, hs⟩ | ⟨hpc, ⟨r, hr⟩, hs⟩ | ⟨hpc, i, hi, hs⟩ := step_cases s
  · cases hs.symm.trans h
    exact step_of_pc_out_of_bounds (s.withKeysAndTimers k d u) hpc
  · cases hs.symm.trans h
    exact step_of_decode_error (s.withKeysAndTimers k d u) hpc r hr
  · rw [step_of_decode_ok (s.withKeysAndTimers k d u) hpc i hi]
    exact exec_withKeysAndTimers k d u (inSource8_of_decode hp hi) (hs.symm.trans h)

/-! ### Timers and memory in SOURCE8 -/

theorem touches_of_inSource8 {i : Instr} (hi : i.inSource8 = true) (s : State) :
    (touches i s).delay = false ∧ (touches i s).sound = false ∧ (touches i s).cells = (0, 0) := by
  cases i
  case cls | ret | jp | call | ldVxKk | addVxKk | ldINnn | drw => exact ⟨rfl, rfl, rfl⟩
  all_goals cases hi

/-- What no step in SOURCE8 changes. -/
theorem step_source8 (hp : s.cfg.profile = .source8) (h : step s = .next t) :
    t.cfg = s.cfg ∧ t.dt = s.dt ∧ t.st = s.st ∧ ∀ a, t.cell a = s.cell a := by
  obtain ⟨-, hs⟩ | ⟨-, -, hs⟩ | ⟨-, i, hi, hs⟩ := step_cases s
  · cases hs.symm.trans h
    exact ⟨rfl, rfl, rfl, fun _ => rfl⟩
  · cases hs.symm.trans h
    exact ⟨rfl, rfl, rfl, fun _ => rfl⟩
  · have hframe := everyInstructionKeepsItsFrame i s t (hs.symm.trans h)
    obtain ⟨hdelay, hsound, hcells⟩ := touches_of_inSource8 (inSource8_of_decode hp hi) s
    exact ⟨hframe.cfg, hframe.delay hdelay, hframe.sound hsound, fun a => hframe.cells a (by simp [hcells])⟩

/-- A running machine in SOURCE8 whose timers are both 0. -/
def Device.TimersIdle (d : Device) : Prop := ∃ s, d = .running s ∧ s.cfg.profile = .source8 ∧ s.dt = 0 ∧ s.st = 0

theorem load_eq_memory_change (s : State) (rom : List Byte) :
    s.load rom = ({ s with mem := (s.load rom).1.mem }, (s.load rom).2) := by
  rw [State.load]
  split
  case isTrue => rfl
  case isFalse => rw [← setCells_eq]

theorem issue_keeps_timersIdle (c : Command) (d e : Device) (r : Response) (hd : d.TimersIdle)
    (h : issue c d = .next (e, r)) : e.TimersIdle := by
  obtain ⟨s, rfl, hp, hdt, hst⟩ := hd
  obtain ⟨t, rfl, rfl | ⟨rom, rfl⟩ | hstep | rfl | ⟨k, p, rfl⟩ | rfl⟩ := issue_running h
  · exact ⟨_, rfl, hp, rfl, rfl⟩
  · rw [load_eq_memory_change]
    exact ⟨_, rfl, hp, hdt, hst⟩
  · obtain ⟨hcfg, hdelay, hsound, -⟩ := step_source8 hp hstep
    exact ⟨t, rfl, by rw [hcfg, hp], hdelay.trans hdt, hsound.trans hst⟩
  · refine ⟨_, rfl, hp, ?_, ?_⟩
    · rw [tickTimers_dt, hdt]
      rfl
    · rw [tickTimers_st, hst]
      rfl
  · exact ⟨_, rfl, hp, hdt, hst⟩
  · exact ⟨_, rfl, hp, hdt, hst⟩

/-- Settles O25: no command sets a timer above 0, and the frames of the eight instructions list no cell. -/
theorem source8TimersAndMemoryStay : Obligations.Source8TimersAndMemoryStay := by
  refine ⟨fun cs s e rs hp hdt hst h => ?timers, fun s t hp h => ?memory⟩
  case timers =>
    obtain ⟨t, he, -, hdelay, hsound⟩ :=
      runSchedule_keeps issue_keeps_timersIdle cs (.running s) e rs ⟨s, rfl, hp, hdt, hst⟩ h
    exact ⟨t, he, hdelay, hsound⟩
  case memory =>
    obtain ⟨-, -, -, hcells⟩ := step_source8 hp h
    exact hcells

end Sys2Proof.Machine
end

section
/-! The host's `load`, the fetch after a store, and the key and read commands (50_host_interface.md R152 to R156;
20_memory.md R46). -/

namespace Sys2Proof.Machine

variable (s : State)

/-! ### `load` (R152) -/

theorem load_of_too_large (rom : List Byte) (h : rom.length > 3584) : s.load rom = (s, .romTooLarge) := if_pos h

theorem load_of_fits (rom : List Byte) (h : rom.length ≤ 3584) : s.load rom = (s.setCells 0x200 rom, .ok) :=
  if_neg (not_lt.2 h)

theorem setCells_cell_of_getElem? (a : Nat) (bs : List Byte) (k : Nat) (b : Byte) (h : bs[k]? = some b) :
    (s.setCells a bs).cell (a + k) = b := by
  obtain ⟨hk, -⟩ := List.getElem?_eq_some_iff.1 h
  rw [setCells_cell, if_pos ⟨by omega, by omega⟩, Nat.add_sub_cancel_left, List.getD_eq_getElem?_getD, h,
    Option.getD_some]

theorem setCells_cell_outside (a : Nat) (bs : List Byte) (k : Nat) (h : k < a ∨ a + bs.length ≤ k) :
    (s.setCells a bs).cell k = s.cell k := by
  rw [setCells_cell, if_neg (by omega)]

/-- Settles O56, on each side of the length check. -/
theorem loadWritesRomOrRefuses : Obligations.LoadWritesRomOrRefuses := by
  intro s rom
  refine ⟨fun hlarge => ?refused, fun hfits => ⟨s.setCells 0x200 rom, ?written, fun k b hk => ?inside,
    fun a ha => ?outside, ?rest⟩⟩
  case refused => rw [issue_load, load_of_too_large s rom hlarge]
  case written => rw [issue_load, load_of_fits s rom hfits]
  case inside => exact setCells_cell_of_getElem? s _ rom k b hk
  case outside => exact setCells_cell_outside s _ rom a ha
  case rest => exact setCells_eq s _ rom

theorem load_cell_below (rom : List Byte) (a : Nat) (ha : a < 0x200) : (s.load rom).1.cell a = s.cell a := by
  by_cases hfits : rom.length ≤ 3584
  · rw [load_of_fits s rom hfits]
    exact setCells_cell_outside s _ rom a (.inl ha)
  · rw [load_of_too_large s rom (by omega)]

/-- Settles O3: the fontset is the reset content of its cells, and they lie below every ROM. -/
theorem fontsetSurvivesEveryLoad : Obligations.FontsetSurvivesEveryLoad := by
  intro d rom
  obtain ⟨draws, hrun⟩ := runSchedule_reset_load d rom
  refine ⟨_, _, hrun, fun k => ?_⟩
  rw [load_cell_below _ rom _ (by omega), resetWith_cell, resetByte_font]

theorem fetchBytes_setCells_encodeBytes (i : Instr) (rest : List Byte) (hpc : s.pc = 0x200) :
    (s.setCells 0x200 (encodeBytes i ++ rest)).fetchBytes = encodeBytes i := by
  have hhigh := setCells_cell_of_getElem? s 0x200 (encodeBytes i ++ rest) 0 _ rfl
  have hlow := setCells_cell_of_getElem? s 0x200 (encodeBytes i ++ rest) 1 _ rfl
  have haddr : (0x200 : Word).toNat = 0x200 := rfl
  rw [State.fetchBytes, setCells_pc, hpc, haddr, hlow]
  exact congrArg (fun b => [b, _]) hhigh

/-- Settles O21: the bytes at 0x200 are the ones that the encoding laid out. -/
theorem loadedProgramRunsFrom0x200 : Obligations.LoadedProgramRunsFrom0x200 := by
  intro d i rest hwf hlen
  obtain ⟨draws, hrun⟩ := runSchedule_reset_load d (encodeBytes i ++ rest)
  have hfits : (encodeBytes i ++ rest).length ≤ 3584 := by
    simp only [encodeBytes, List.length_append, List.length_cons, List.length_nil]
    omega
  rw [load_of_fits _ _ hfits] at hrun
  have hpc : ((State.resetWith d.cfg draws).setCells 0x200 (encodeBytes i ++ rest)).pc = 0x200 := by
    rw [setCells_pc, resetWith_pc]
  refine ⟨_, hrun, hpc, step_of_decodeBytes (by rw [hpc]; decide) i [] ?_⟩
  rw [fetchBytes_setCells_encodeBytes _ i rest rfl, setCells_cfg, resetWith_cfg]
  exact decodeBytes_encodeBytes _ i [] hwf

/-! ### The fetch after a store -/

/-- The fetch reads the cells as they are, so it sees whatever was stored in them. -/
theorem fetchesStored_of_cells {t : State} {base : Nat} {bs : List Byte}
    (hcells : ∀ k, t.cell k = s.cellWith base bs k) (hcfg : t.cfg = s.cfg) : FetchesStored s base bs t := by
  intro hpc op hop
  rw [← hcells, ← hcells] at hop
  rw [← hcfg]
  obtain ⟨-, hin⟩ := fetchBoundAndByteOrder t
  exact hin hpc op hop

/-- Settles O22: each of the three stores is a run of cells, and each next state has those cells. -/
theorem storeIsSeenByTheNextFetch : Obligations.StoreIsSeenByTheNextFetch := by
  intro s
  refine ⟨fun x hx => ?registers, fun x hx => ?digits, fun rom hrom => ?loaded⟩
  case registers =>
    refine ⟨_, exec_ldMemVx_of_in_memory s x (not_lt.2 hx), setCells_advance_pc s _ _, ?_⟩
    rw [← regsUpTo_eq_map]
    refine fetchesStored_of_cells s (fun k => ?_) (setCells_cfg s _ _)
    rw [advance_cell, setI_cell, setCells_cell_eq_cellWith]
  case digits =>
    refine ⟨_, exec_ldBVx_of_in_memory s x (not_lt.2 hx), setCells_advance_pc s _ _, ?_⟩
    refine fetchesStored_of_cells s (fun k => ?_) (setCells_cfg s _ _)
    rw [advance_cell, setCells_cell_eq_cellWith]
    rfl
  case loaded =>
    refine ⟨s.setCells 0x200 rom, ?_, setCells_pc s _ _, ?_⟩
    · rw [issue_load, load_of_fits s rom hrom]
    · exact fetchesStored_of_cells s (setCells_cell_eq_cellWith s _ rom) (setCells_cfg s _ _)

/-! ### The key and read commands (R153 to R156) -/

theorem setKey_key_getElem (k : Fin 16) (p : Bool) (j : Fin 16) :
    (s.setKey k p).key[j] = if j = k then p else s.key[j] := by
  rw [setKey_key, Fin.getElem_fin, Vector.getElem_set]
  simp only [← Fin.ext_iff, eq_comm (a := k), Fin.getElem_fin]

/-- Pixel (x, y) is at position y * 64 + x, which names no other pixel (D9). -/
theorem pixelBuffer_getElem? (y : Fin 32) (x : Fin 64) :
    s.pixelBuffer[y.val * 64 + x.val]? = some s.gfx[y][x] := by
  have hlt : y.val * 64 + x.val < 2048 := by omega
  have hrow : (y.val * 64 + x.val) / 64 = y.val := by omega
  have hcol : (y.val * 64 + x.val) % 64 = x.val := by omega
  rw [Vector.getElem?_eq_getElem hlt, State.pixelBuffer, Vector.getElem_ofFn]
  simp only [hrow, hcol, get_eq_getElem s.gfx y.val x.val y.isLt x.isLt, Fin.getElem_fin]

/-- Settles O57: one flag is written, or nothing. -/
theorem keyAndReadCommands : Obligations.KeyAndReadCommands := by
  intro s
  refine ⟨fun k p => ⟨s.setKey k p, ?answered, ?written, fun j hj => ?kept, rfl⟩, fun n p hn => ?refused, rfl, rfl,
    s.pixelBuffer, rfl, pixelBuffer_getElem? s⟩
  case answered => rw [issue, dif_pos k.isLt]
  case written => rw [setKey_key_getElem, if_pos rfl]
  case kept => rw [setKey_key_getElem, if_neg hj]
  case refused => rw [issue, dif_neg (by omega)]

end Sys2Proof.Machine
end

section
/-! RET and CALL, and the stack between them (41_control_flow.md R80, R82). -/

namespace Sys2Proof.Machine

variable (s : State)

/-! ### RET -/

/-- R80 with the stack pointer written as the one after the pop. -/
theorem exec_ret_of_sp_succ (k : Fin 16) (h : s.sp.val = k.val + 1) :
    exec .ret s = .next (State.jump { s with sp := k.castSucc } s.stack[k]) := by
  have hpos : s.sp.val ≠ 0 := by omega
  have hk : s.sp.val - 1 = k.val := by omega
  have hsp : (⟨s.sp.val - 1, by omega⟩ : Fin 17) = k.castSucc := Fin.ext hk
  rw [exec_ret_of_pos s hpos, hsp]
  simp only [hk, Fin.getElem_fin]

/-- Settles O26, on each side of the check. -/
theorem retPopsOrUnderflows : Obligations.RetPopsOrUnderflows := by
  intro s
  refine ⟨fun k hk => ?pops, fun hempty => ?underflows⟩
  case pops =>
    have hframe := (setStack_unchanged s s.stack k.castSucc).trans_empty (jump_unchanged _ s.stack[k])
    exact ⟨_, exec_ret_of_sp_succ s k hk, rfl, jump_pc _ _, rfl, jump_outcome _ _, hframe⟩
  case underflows => exact ⟨_, exec_ret_of_empty s hempty, raise_executeFault s _ nofun nofun⟩

/-! ### CALL -/

/-- R82 with the stack pointer written as the one before the push. -/
theorem exec_call_of_sp (nnn : Addr) (k : Fin 16) (h : s.sp.val = k.val) :
    exec (.call nnn) s =
      .next (State.jump { s with stack := s.stack.set k (s.pc + 2), sp := k.succ } (zextAddr nnn)) := by
  have hsp : (⟨s.sp.val + 1, by omega⟩ : Fin 17) = k.succ := Fin.ext (congrArg (· + 1) h)
  rw [exec_call_of_lt s nnn (by omega), hsp]
  simp only [h, State.npc]

/-- Settles O28, on each side of the check. -/
theorem callPushesOrOverflows : Obligations.CallPushesOrOverflows := by
  intro s nnn
  refine ⟨fun k hk => ?pushes, fun hfull => ?overflows⟩
  case pushes =>
    have hframe :=
      (setStack_unchanged s (s.stack.set k (s.pc + 2)) k.succ).trans_empty (jump_unchanged _ (zextAddr nnn))
    refine ⟨_, exec_call_of_sp s nnn k hk, ?pushed, fun j hj => ?kept, rfl, zextAddr_toNat nnn, jump_outcome _ _,
      hframe⟩
    case pushed => rw [jump_stack, Fin.getElem_fin, Vector.getElem_set_self]
    case kept => rw [jump_stack, Fin.getElem_fin, Vector.getElem_set_ne _ _ (Fin.val_ne_of_ne hj.symm), Fin.getElem_fin]
  case overflows => exact ⟨_, exec_call_of_full s nnn hfull, raise_executeFault s _ nofun nofun⟩

/-! ### CALL and then RET, and CALL after CALL -/

/-- Settles O29: RET pops the slot that CALL pushed. -/
theorem retAfterCallReturns : Obligations.RetAfterCallReturns := by
  intro s nnn hsp
  obtain ⟨hpush, -⟩ := callPushesOrOverflows s nnn
  obtain ⟨t, ht, hslot, -, htsp, -⟩ := hpush ⟨s.sp.val, hsp⟩ rfl
  refine ⟨t, ht, fun u hstack husp => ?_⟩
  obtain ⟨hpop, -⟩ := retPopsOrUnderflows u
  obtain ⟨w, hw, hwsp, hwpc, -, hok, -⟩ := hpop ⟨s.sp.val, hsp⟩ (by rw [husp, htsp])
  refine ⟨w, hw, ?pc, Fin.ext hwsp, hok⟩
  case pc => rw [hwpc, hstack, hslot]

/-- As many CALLs as the stack has room for all succeed. -/
theorem execAll_calls (targets : List Addr) (hroom : s.sp.val + targets.length ≤ 16) :
    ∃ t, execAll (targets.map .call) s = .next t ∧ (targets ≠ [] → t.outcome = .ok) ∧
      t.sp.val = s.sp.val + targets.length := by
  induction targets generalizing s with
  | nil => exact ⟨s, rfl, fun h => absurd rfl h, rfl⟩
  | cons nnn targets ih =>
    simp only [List.length_cons] at hroom
    obtain ⟨hpush, -⟩ := callPushesOrOverflows s nnn
    obtain ⟨u, hu, -, -, husp, -, hok, -⟩ := hpush ⟨s.sp.val, by omega⟩ rfl
    have husp' : u.sp.val = s.sp.val + 1 := husp
    obtain ⟨t, ht, htok, htsp⟩ := ih u (by omega)
    refine ⟨t, ?ran, fun _ => ?ok, ?sp⟩
    case ran => rw [List.map_cons, execAll, hu, ← ht]
    case ok =>
      by_cases hlast : targets = []
      · subst hlast
        cases ht
        exact hok
      · exact htok hlast
    case sp =>
      rw [htsp, husp', List.length_cons]
      omega

/-- Settles O30: 16 CALLs fill an empty stack, and a full stack refuses the next. -/
theorem sixteenCallsThenOverflow : Obligations.SixteenCallsThenOverflow := by
  intro s targets nnn hempty hlen
  obtain ⟨t, ht, hok, hsp⟩ := execAll_calls s targets (by omega)
  have hfull : t.sp.val = 16 := by omega
  have hcalls : targets ≠ [] := by
    rintro rfl
    cases hlen
  exact ⟨t, ht, hok hcalls, hfull, _, exec_call_of_full t nnn hfull, raise_outcome t _, raise_stack t _, raise_sp t _⟩

end Sys2Proof.Machine
end

section
/-! The remaining skips and the indexed jump (44_ext_skip_jump.md R102 to R104; 46_ext_keypad_timer_random.md R126,
R127). -/

namespace Sys2Proof.Machine

theorem exec_seVxVy (s : State) (x y : RegIx) : exec (.seVxVy x y) s = .next (s.skipIf (s.getV x == s.getV y)) := rfl

theorem exec_sneVxVy (s : State) (x y : RegIx) : exec (.sneVxVy x y) s = .next (s.skipIf (s.getV x != s.getV y)) := rfl

/-- Settles O32: as O31, with the byte read from V[Y]. -/
theorem skipOnRegister : Obligations.SkipOnRegister := by
  intro s x y
  exact ⟨_, _,
    exec_seVxVy s x y, skipIf_beq_pc s _ _, skipIf_outcome s _, skipIf_unchanged s _,
    exec_sneVxVy s x y, skipIf_bne_pc s _ _, skipIf_outcome s _, skipIf_unchanged s _⟩

/-- Settles O33: NNN + V0 is at most 4095 + 255, so the 16 bits of `pc` hold it whole. -/
theorem jpV0AddsV0 : Obligations.JpV0AddsV0 := by
  intro s nnn
  exact ⟨_, exec_jpV0Nnn s nnn, jpV0_target_toNat s nnn, jump_outcome s _, jump_unchanged s _⟩

theorem exec_skpVx (s : State) (x : RegIx) : exec (.skpVx x) s = .next (s.skipIf (s.keySelected x)) := rfl

theorem exec_sknpVx (s : State) (x : RegIx) : exec (.sknpVx x) s = .next (s.skipIf (!s.keySelected x)) := rfl

/-- The low nibble as R126 writes it, `V[X] mod 16` (D25). -/
theorem lowNibble_val (s : State) (x : RegIx) : (s.lowNibble x).val = (s.getV x).toNat % 16 := by
  have h : ((s.getV x).extractLsb' 0 4).toNat = (s.getV x).toNat % 16 := by
    rw [BitVec.extractLsb'_toNat, Nat.shiftRight_zero]
  exact h

theorem keySelected_eq (s : State) (x : RegIx) (k : Fin 16) (hk : k.val = (s.getV x).toNat % 16) :
    s.keySelected x = s.key[k] := by
  have hnibble : s.lowNibble x = k := Fin.ext ((lowNibble_val s x).trans hk.symm)
  exact congrArg (fun j : Fin 16 => s.key[j]) hnibble

/-- Settles O46: one skip operation under opposite conditions, on the key that the low nibble selects. -/
theorem skipOnKey : Obligations.SkipOnKey := by
  intro s x k hk
  refine ⟨_, _, exec_skpVx s x, ?down, skipIf_outcome s _, skipIf_unchanged s _,
    exec_sknpVx s x, ?up, skipIf_outcome s _, skipIf_unchanged s _⟩
  case down => rw [skipIf_pc_from_pc, keySelected_eq s x k hk]
  case up =>
    rw [skipIf_pc_from_pc, keySelected_eq s x k hk]
    cases s.key[k] <;> rfl

end Sys2Proof.Machine
end

section
/-! The register-register operations: a result in V[X], and then the flag in VF (45_ext_alu.md R111 to R119). -/

namespace Sys2Proof.Machine

variable (s : State) (x y : RegIx)

/-! ### The result and the flag -/

theorem setVThenFlag_getV_vF (b f : Byte) : (s.setVThenFlag x b f).advance.getV vF = f := by
  rw [advance_getV, setVThenFlag_getV, if_pos rfl]

/-- Where X = F the flag has taken the result's place (R119). -/
theorem setVThenFlag_getV_same (b f : Byte) (hx : x ≠ vF) : (s.setVThenFlag x b f).advance.getV x = b := by
  rw [advance_getV, setVThenFlag_getV, if_neg hx, if_pos rfl]

/-- What every operation with a flag leaves beside the result and the flag. -/
theorem setVThenFlag_ends (b f : Byte) :
    (s.setVThenFlag x b f).advance.pc = s.pc + 2 ∧ (s.setVThenFlag x b f).advance.outcome = .ok ∧
      Unchanged { regs := [x, vF] } s (s.setVThenFlag x b f).advance :=
  ⟨setVThenFlag_advance_pc s x b f, advance_outcome _, (setVThenFlag_unchanged s x b f).advance⟩

/-! ### OR, AND, XOR -/

theorem exec_orVxVy : exec (.orVxVy x y) s = .next (s.setLogic x (s.getV x ||| s.getV y)).advance := rfl

theorem exec_andVxVy : exec (.andVxVy x y) s = .next (s.setLogic x (s.getV x &&& s.getV y)).advance := rfl

theorem exec_xorVxVy : exec (.xorVxVy x y) s = .next (s.setLogic x (s.getV x ^^^ s.getV y)).advance := rfl

theorem setLogic_getV_same (b : Byte) (h : x ≠ vF ∨ s.cfg.logicVfReset = false) :
    (s.setLogic x b).advance.getV x = b := by
  have hkept : ¬(x = vF ∧ s.cfg.logicVfReset = true) := by
    rintro ⟨hx, hreset⟩
    obtain hne | hoff := h
    · exact hne hx
    · cases hoff.symm.trans hreset
  rw [advance_getV, setLogic_getV, if_neg hkept, if_pos rfl]

/-- What all three leave beside the result, whatever it is (D22, both values). -/
theorem setLogic_ends (b : Byte) :
    (s.cfg.logicVfReset = true → (s.setLogic x b).advance.getV vF = 0) ∧
      (s.cfg.logicVfReset = false → Unchanged { regs := [x] } s (s.setLogic x b).advance) ∧
      (s.setLogic x b).advance.pc = s.pc + 2 ∧ (s.setLogic x b).advance.outcome = .ok ∧
      Unchanged { regs := [x, vF] } s (s.setLogic x b).advance := by
  have hpc := setLogic_advance_pc s x b
  cases hreset : s.cfg.logicVfReset with
  | true =>
    have hflag := setVThenFlag_getV_vF s x b 0
    rw [setLogic_of_reset s x b hreset] at hpc ⊢
    exact ⟨fun _ => hflag, nofun, hpc, advance_outcome _, (setVThenFlag_unchanged s x b 0).advance⟩
  | false =>
    rw [setLogic_of_no_reset s x b hreset] at hpc ⊢
    have hframe := (setV_unchanged s x b).advance
    exact ⟨nofun, fun _ => hframe, hpc, advance_outcome _,
      { hframe with regs := fun r hr => hframe.regs r fun hx => hr (List.mem_cons.2 (.inl (List.mem_singleton.1 hx))) }⟩

/-- Settles O41: the three differ in the result alone. -/
theorem logicOpsAndVfReset : Obligations.LogicOpsAndVfReset := by
  intro s x y
  refine ⟨_, _, _, exec_orVxVy s x y, exec_andVxVy s x y, exec_xorVxVy s x y, fun hx j _ => ?bits, ?ends⟩
  case bits =>
    rw [setLogic_getV_same s x _ hx, setLogic_getV_same s x _ hx, setLogic_getV_same s x _ hx]
    exact ⟨BitVec.getLsbD_or, BitVec.getLsbD_and, BitVec.getLsbD_xor⟩
  case ends =>
    intro e he
    simp only [List.mem_cons, List.not_mem_nil, or_false] at he
    obtain rfl | rfl | rfl := he
    · exact setLogic_ends s x _
    · exact setLogic_ends s x _
    · exact setLogic_ends s x _

/-! ### ADD, SUB, SUBN -/

theorem flag_eq_ite (c : Bool) : flag c = if c = true then 1 else 0 := rfl

theorem exec_addVxVy : exec (.addVxVy x y) s = .next (s.setVThenFlag x
    (BitVec.ofNat 8 ((s.getV x).toNat + (s.getV y).toNat)) (carryFlag (s.getV x) (s.getV y))).advance := rfl

theorem exec_subVxVy : exec (.subVxVy x y) s = .next (s.setVThenFlag x
    (BitVec.ofNat 8 ((s.getV x).toNat + 256 - (s.getV y).toNat)) (noBorrowFlag (s.getV x) (s.getV y))).advance := rfl

theorem exec_subnVxVy : exec (.subnVxVy x y) s = .next (s.setVThenFlag x
    (BitVec.ofNat 8 ((s.getV y).toNat + 256 - (s.getV x).toNat)) (noBorrowFlag (s.getV y) (s.getV x))).advance := rfl

theorem carryFlag_eq (a b : Byte) : carryFlag a b = if a.toNat + b.toNat > 255 then 1 else 0 := by
  simp only [carryFlag, flag_eq_ite, decide_eq_true_eq]

theorem noBorrowFlag_eq (a b : Byte) : noBorrowFlag a b = if a.toNat ≥ b.toNat then 1 else 0 := by
  simp only [noBorrowFlag, flag_eq_ite, decide_eq_true_eq]

/-- Settles O42: the result first and the carry second, so VF is the carry even where X = F (D27). -/
theorem addVxVyAndCarry : Obligations.AddVxVyAndCarry := by
  intro s x y
  refine ⟨_, exec_addVxVy s x y, fun hx => ?sum, ?carry, setVThenFlag_ends s x _ _⟩
  case sum => rw [setVThenFlag_getV_same s x _ _ hx, BitVec.toNat_ofNat]
  case carry => rw [setVThenFlag_getV_vF, carryFlag_eq]

/-- Settles O43: SUBN is SUB with the operands the other way round, the register written aside. -/
theorem subtractionsAndBorrow : Obligations.SubtractionsAndBorrow := by
  intro s x y
  refine ⟨_, _, exec_subVxVy s x y, exec_subnVxVy s x y, fun hx => ⟨?sub, ?subn⟩, ?subFlag, ?subnFlag, ?ends⟩
  case sub => rw [setVThenFlag_getV_same s x _ _ hx, BitVec.toNat_ofNat]
  case subn => rw [setVThenFlag_getV_same s x _ _ hx, BitVec.toNat_ofNat]
  case subFlag => rw [setVThenFlag_getV_vF, noBorrowFlag_eq]
  case subnFlag => rw [setVThenFlag_getV_vF, noBorrowFlag_eq]
  case ends =>
    intro e he
    simp only [List.mem_cons, List.not_mem_nil, or_false] at he
    obtain rfl | rfl := he
    · exact setVThenFlag_ends s x _ _
    · exact setVThenFlag_ends s x _ _

/-! ### SHR, SHL -/

theorem exec_shrVxVy : exec (.shrVxVy x y) s = .next (s.setVThenFlag x
    (BitVec.ofNat 8 ((s.shiftSource x y).toNat / 2)) (shiftedOutRight (s.shiftSource x y))).advance := rfl

theorem exec_shlVxVy : exec (.shlVxVy x y) s = .next (s.setVThenFlag x
    (BitVec.ofNat 8 ((s.shiftSource x y).toNat * 2)) (shiftedOutLeft (s.shiftSource x y))).advance := rfl

theorem shiftSource_eq (src : Byte) (hvy : s.cfg.shiftSrc = .vy → src = s.getV y)
    (hvx : s.cfg.shiftSrc = .vx → src = s.getV x) : s.shiftSource x y = src := by
  unfold State.shiftSource
  cases hq : s.cfg.shiftSrc with
  | vy => exact (hvy hq).symm
  | vx => exact (hvx hq).symm

theorem flag_toNat (c : Bool) : (flag c).toNat = c.toNat := by cases c <;> rfl

theorem shiftedOutRight_toNat (src : Byte) : (shiftedOutRight src).toNat = src.toNat % 2 := by
  rw [shiftedOutRight, flag_toNat]
  have hbit : src.getLsbD 0 = decide (src.toNat % 2 = 1) := by
    rw [BitVec.getLsbD, Nat.testBit_zero]
  rw [hbit]
  rcases Nat.mod_two_eq_zero_or_one src.toNat with h | h <;> simp [h]

/-- Bit 7 is the top bit of a byte. -/
theorem shiftedOutLeft_toNat (src : Byte) : (shiftedOutLeft src).toNat = src.toNat / 128 := by
  rw [shiftedOutLeft, flag_toNat]
  have hbit : src.getLsbD 7 = decide (src.toNat / 128 % 2 = 1) := by
    rw [BitVec.getLsbD, Nat.testBit_eq_decide_div_mod_eq]
  have hle : src.toNat / 128 ≤ 1 := by omega
  rw [hbit]
  rcases Nat.le_one_iff_eq_zero_or_eq_one.1 hle with h | h <;> simp [h]

/-- Settles O44: both shift the one source that Q_SHIFT_SRC selects (D21, both values). -/
theorem shiftsAndBitShiftedOut : Obligations.ShiftsAndBitShiftedOut := by
  intro s x y src hvy hvx
  have hsrc := shiftSource_eq s x y src hvy hvx
  refine ⟨_, _, exec_shrVxVy s x y, exec_shlVxVy s x y, fun hx => ⟨?right, ?left⟩, ?rightBit, ?leftBit, ?ends⟩
  case right =>
    rw [setVThenFlag_getV_same s x _ _ hx, hsrc, BitVec.toNat_ofNat]
    omega
  case left => rw [setVThenFlag_getV_same s x _ _ hx, hsrc, BitVec.toNat_ofNat]
  case rightBit => rw [setVThenFlag_getV_vF, hsrc, shiftedOutRight_toNat]
  case leftBit => rw [setVThenFlag_getV_vF, hsrc, shiftedOutLeft_toNat]
  case ends =>
    intro e he
    simp only [List.mem_cons, List.not_mem_nil, or_false] at he
    obtain rfl | rfl := he
    · exact setVThenFlag_ends s x _ _
    · exact setVThenFlag_ends s x _ _

end Sys2Proof.Machine
end

section
/-! The random byte, the key wait, index arithmetic, and the instructions with a data run that stays in memory
(46_ext_keypad_timer_random.md R125, R129; 47_ext_index_memory.md R135 to R139). -/

namespace Sys2Proof.Machine

/-! ### CXKK, FX0A -/

theorem exec_rndVxKk (s : State) (x : RegIx) (kk : Byte) :
    exec (.rndVxKk x kk) s = .next (s.drawn.setV x (s.rnd &&& kk)).advance := rfl

/-- Settles O45: the byte is whatever `Config.rnd` gives at this count, of which nothing is used. -/
theorem rndMasksAFreeByte : Obligations.RndMasksAFreeByte := by
  intro s x kk
  refine ⟨_, exec_rndVxKk s x kk, ?masked, drawn_draws s, setV_advance_pc s.drawn x _, advance_outcome _,
    (drawn_setV_unchanged s x _).advance⟩
  case masked => rw [advance_getV, setV_getV_same, State.rnd]

/-- The least key down is the one that `leastKey` finds, and no other (R129). -/
theorem leastKey_of_least (s : State) (k : Fin 16) (hdown : s.key[k] = true)
    (hleast : ∀ j : Fin 16, j < k → s.key[j] = false) : s.leastKey = some k := by
  cases hkey : s.leastKey with
  | none => cases hdown.symm.trans ((leastKey_eq_none s).1 hkey k)
  | some m =>
    obtain ⟨hm, hbelow⟩ := leastKey_eq_some s m hkey
    obtain hlt | heq | hgt := lt_trichotomy m k
    · cases hm.symm.trans (hleast m hlt)
    · rw [heq]
    · cases hdown.symm.trans (hbelow k hgt)

/-- Settles O48: a key number fits a byte, and a wait is a jump to itself (D24). -/
theorem waitForKeyTakesLeastKey : Obligations.WaitForKeyTakesLeastKey := by
  intro s x
  refine ⟨fun k hdown hleast => ?taken, fun hup => ?stays⟩
  case taken =>
    refine ⟨_, exec_ldVxK_of_key s x k (leastKey_of_least s k hdown hleast), ?_, setV_advance_pc s x _,
      advance_outcome _, (setV_unchanged s x _).advance⟩
    rw [advance_getV, setV_getV_same, BitVec.toNat_ofNat, Nat.mod_eq_of_lt (by omega)]
  case stays =>
    exact ⟨_, exec_ldVxK_of_no_key s x ((leastKey_eq_none s).2 hup), rfl, jump_outcome s _, jump_unchanged s _⟩

/-! ### FX1E, FX29 -/

theorem exec_addIVx (s : State) (x : RegIx) :
    exec (.addIVx x) s = .next (s.setI (BitVec.ofNat 16 (s.i.toNat + (s.getV x).toNat))).advance := rfl

theorem exec_ldFVx (s : State) (x : RegIx) : exec (.ldFVx x) s = .next (s.setI (s.glyphAddr x)).advance := rfl

theorem glyphAddr_toNat (s : State) (x : RegIx) : (s.glyphAddr x).toNat = 0x050 + 5 * ((s.getV x).toNat % 16) := by
  rw [State.glyphAddr, lowNibble_val, BitVec.toNat_ofNat, Nat.mod_eq_of_lt (by omega)]

/-- Settles O49: both are a write of `I` and an advance. -/
theorem indexAddAndGlyph : Obligations.IndexAddAndGlyph := by
  intro s x
  refine ⟨⟨_, exec_addIVx s x, ?sum, setI_advance_pc s _, advance_outcome _, (setI_unchanged s _).advance⟩,
    ⟨_, exec_ldFVx s x, ?glyph, setI_advance_pc s _, advance_outcome _, (setI_unchanged s _).advance⟩⟩
  case sum => rw [advance_i, setI_i, BitVec.toNat_ofNat]
  case glyph => rw [advance_i, setI_i, glyphAddr_toNat]

/-! ### FX33, FX55, FX65 -/

/-- A digit of a byte fits a byte. -/
theorem digit_toNat (n : Nat) (h : n < 256) : (BitVec.ofNat 8 n).toNat = n := by
  rw [BitVec.toNat_ofNat, Nat.mod_eq_of_lt h]

/-- Settles O50: the run of the three digits is written whole. -/
theorem bcdStoresThreeDigits : Obligations.BcdStoresThreeDigits := by
  intro s x hin
  have hcell := fun k b h => setCells_cell_of_getElem? s s.i.toNat (decimalDigits (s.getV x)) k b h
  refine ⟨_, exec_ldBVx_of_in_memory s x (not_lt.2 hin), ?hundreds, ?tens, ?ones, setCells_advance_pc s _ _,
    advance_outcome _, (setCells_unchanged s s.i.toNat (decimalDigits (s.getV x))).advance⟩
  case hundreds =>
    have hfirst := hcell 0 _ rfl
    rw [Nat.add_zero] at hfirst
    rw [advance_cell, hfirst, digit_toNat _ (by omega)]
  case tens => rw [advance_cell, hcell 1 _ rfl, digit_toNat _ (by omega)]
  case ones => rw [advance_cell, hcell 2 _ rfl, digit_toNat _ (by omega)]

theorem indexAfterRun_toNat (s : State) (x : RegIx) (hin : s.i.toNat + x.val ≤ 0xFFF) :
    (s.indexAfterRun x).toNat = if s.cfg.memIIncrement = true then s.i.toNat + x.val + 1 else s.i.toNat := by
  rw [State.indexAfterRun]
  split
  case isTrue => rw [BitVec.toNat_ofNat, Nat.mod_eq_of_lt (by omega)]
  case isFalse => rfl

/-- The move of `I` stated without its parameter, as O51 and O52 do. -/
theorem Unchanged.setI {s t : State} {regs : List RegIx} {cells : Nat × Nat}
    (h : Unchanged { regs := regs, cells := cells } s t) (w : Word) :
    Unchanged { regs := regs, index := true, cells := cells } s (t.setI w) where
  regs := h.regs
  index hc := nomatch hc
  stack := h.stack
  delay := h.delay
  sound := h.sound
  pixels := h.pixels
  draws := h.draws
  cells := h.cells
  key := h.key
  cfg := h.cfg

theorem setCells_regsUpTo_cell (s : State) (a : Nat) (x r : RegIx) (hr : r ≤ x) :
    (s.setCells a (s.regsUpTo x)).cell (a + r.val) = s.getV r := by
  have hlt : r.val < x.val + 1 := Nat.lt_succ_of_le hr
  rw [setCells_cell, regsUpTo_length, if_pos ⟨by omega, by omega⟩, Nat.add_sub_cancel_left, regsUpTo_getD s x r hr]

/-- Settles O51: one run of cells is written, and then `I`. -/
theorem storeRegistersAtIndex : Obligations.StoreRegistersAtIndex := by
  intro s x hin
  have hframe := ((setCells_unchanged s s.i.toNat (s.regsUpTo x)).setI (s.indexAfterRun x)).advance
  rw [regsUpTo_length] at hframe
  refine ⟨_, exec_ldMemVx_of_in_memory s x (not_lt.2 hin), fun r hr => ?stored, ?index, setCells_advance_pc s _ _,
    advance_outcome _, hframe⟩
  case stored => rw [advance_cell, setI_cell, setCells_regsUpTo_cell s _ x r hr]
  case index => rw [advance_i, setI_i, indexAfterRun_toNat s x hin]

theorem setVRun_cellsAtIndex_getV (s : State) (x r : RegIx) :
    (s.setVRun (s.cellsAtIndex (x.val + 1))).getV r = if r ≤ x then s.cell (s.i.toNat + r.val) else s.getV r := by
  rw [setVRun_getV]
  split
  case isTrue hr => exact cellsAtIndex_getD s _ _ (Nat.lt_succ_of_le hr) _
  case isFalse hr =>
    have hlen : (s.cellsAtIndex (x.val + 1)).length ≤ r.val := by
      rw [cellsAtIndex_length]
      exact Nat.succ_le_of_lt (not_le.1 hr)
    rw [List.getD_eq_default _ _ hlen]

/-- Settles O52: one run of registers is written, and then `I`. -/
theorem loadRegistersFromIndex : Obligations.LoadRegistersFromIndex := by
  intro s x hin
  have hframe := setVRun_unchanged s x (s.cellsAtIndex (x.val + 1)) (by simp)
  refine ⟨_, exec_ldVxMem_of_in_memory s x (not_lt.2 hin), fun r => ?loaded, ?index, rfl,
    advance_outcome _, (hframe.setI (s.indexAfterRun x)).advance⟩
  case loaded => rw [advance_getV, setI_getV, setVRun_cellsAtIndex_getV]
  case index => rw [advance_i, setI_i, indexAfterRun_toNat s x hin]

/-- A cell depends on memory and the fontset alone. -/
theorem cell_congr {s t : State} (hmem : s.mem = t.mem) (hcfg : s.cfg = t.cfg) (a : Nat) : s.cell a = t.cell a := by
  rw [State.cell, State.cell, hmem, hcfg]

/-- Settles O54: FX65 reads the cells that FX55 wrote. -/
theorem loadAfterStoreRestoresRegisters : Obligations.LoadAfterStoreRestoresRegisters := by
  intro s x hin
  obtain ⟨t, ht, hstored, -⟩ := storeRegistersAtIndex s x hin
  refine ⟨t, ht, fun u hmem hcfg hi => ?_⟩
  obtain ⟨w, hw, hloaded, -⟩ := loadRegistersFromIndex u x (by rw [hi]; exact hin)
  refine ⟨w, hw, fun r hr => ?_⟩
  rw [hloaded, if_pos hr, cell_congr hmem hcfg, hi, hstored r hr]

end Sys2Proof.Machine
end

section
/-! A sprite that is drawn, pixel by pixel, and drawn again (43_display.md R91 to R93). -/

namespace Sys2Proof.Machine

section
variable (s : State) (x y : RegIx) (n : Count)

/-- The bit that the drawing loop finds for a pixel is the sprite's bit there. -/
theorem spriteOn_eq_row_bit (row col : Nat) :
    s.spriteOn x y n row col =
      (decide (s.originY y + 0 ≤ row ∧ row < s.originY y + 0 + (s.cellsAtIndex n.val).length ∧
          s.originX x ≤ col ∧ col < s.originX x + 8) &&
        ((s.cellsAtIndex n.val).getD (row - (s.originY y + 0)) 0).getLsbD (7 - (col - s.originX x))) := by
  simp only [State.spriteOn, cellsAtIndex_length, Nat.add_zero]
  by_cases h : s.originY y ≤ row ∧ row < s.originY y + n.val ∧ s.originX x ≤ col ∧ col < s.originX x + 8
  · rw [cellsAtIndex_getD s _ _ (by omega)]
  · rw [decide_eq_false h, Bool.false_and, Bool.false_and]

theorem drawSprite_get (row col : Nat) (hrow : row < 32) (hcol : col < 64) :
    Gfx.get (s.drawSprite x y n).gfx row col = (Gfx.get s.gfx row col ^^ s.spriteOn x y n row col) := by
  rw [State.drawSprite, drawRows_get _ _ _ _ _ _ _ hrow hcol, ← spriteOn_eq_row_bit]

theorem drawSprite_hit : (s.drawSprite x y n).hit = true ↔
    ∃ row col, row < 32 ∧ col < 64 ∧ s.spriteOn x y n row col = true ∧ Gfx.get s.gfx row col = true := by
  simp only [State.drawSprite, drawRows_hit, spriteOn_eq_row_bit, Bool.and_eq_true, decide_eq_true_eq, and_assoc,
    Bool.false_eq_true, false_or]

end

theorem flag_eq_one_iff (c : Bool) : flag c = 1 ↔ c = true := by cases c <;> decide

theorem flag_eq_one_or_zero (c : Bool) : flag c = 1 ∨ flag c = 0 := by
  cases c
  · exact .inr rfl
  · exact .inl rfl

/-- Settles O39: the drawing starts from the buffer and no collision, at the coordinates of the state before VF is
written (D10). -/
theorem drwTogglesSpriteAndReportsCollision : Obligations.DrwTogglesSpriteAndReportsCollision := by
  intro s x y n hin
  refine ⟨_, exec_drw_of_in_memory s x y n hin, fun row col hrow hcol => ?pixels, ?collision, ?flag, rfl,
    advance_outcome _, (setGfx_setV_unchanged s _ vF _).advance⟩
  case pixels => exact drawSprite_get s x y n row col hrow hcol
  case collision => rw [advance_getV, setV_getV_same, flag_eq_one_iff, drawSprite_hit]
  case flag =>
    rw [advance_getV, setV_getV_same]
    exact flag_eq_one_or_zero _

/-- Where a sprite is on depends on the two coordinates, `I` and memory. -/
theorem spriteOn_congr {s t : State} {x y : RegIx} (n : Count) (row col : Nat) (hx : t.getV x = s.getV x)
    (hy : t.getV y = s.getV y) (hi : t.i = s.i) (hcells : ∀ a, t.cell a = s.cell a) :
    t.spriteOn x y n row col = s.spriteOn x y n row col := by
  have hcolumn : t.originX x = s.originX x := by rw [State.originX, State.originX, hx]
  have hline : t.originY y = s.originY y := by rw [State.originY, State.originY, hy]
  rw [State.spriteOn, State.spriteOn, hcolumn, hline, hi, hcells]

/-- Settles O40: the first draw leaves coordinates, `I` and memory alone, so the second turns over the same pixels. A
pixel of the sprite that is on after the first draw is one that the first draw turned on. -/
theorem drwTwiceRestoresPixels : Obligations.DrwTwiceRestoresPixels := by
  intro s x y n hx hy hin
  obtain ⟨t, ht, htpixels, -, -, -, -, htframe⟩ := drwTogglesSpriteAndReportsCollision s x y n hin
  have hi : t.i = s.i := htframe.index rfl
  have hsprite : ∀ row col, t.spriteOn x y n row col = s.spriteOn x y n row col := fun row col =>
    spriteOn_congr n row col (htframe.regs x (mt List.mem_singleton.1 hx)) (htframe.regs y (mt List.mem_singleton.1 hy))
      hi fun a => htframe.cells a (by simp)
  obtain ⟨u, hu, hupixels, hucollision, -⟩ := drwTogglesSpriteAndReportsCollision t x y n (by rw [hi]; exact hin)
  refine ⟨t, u, ht, hu, gfx_ext _ _ fun row col hrow hcol => ?restored, hucollision.trans ?turnedOn⟩
  case restored =>
    rw [hupixels row col hrow hcol, htpixels row col hrow hcol, hsprite, Bool.xor_assoc, Bool.xor_self, Bool.xor_false]
  case turnedOn =>
    refine exists_congr fun row => exists_congr fun col => and_congr_right fun hrow => and_congr_right fun hcol => ?_
    rw [hsprite, htpixels row col hrow hcol]
    cases Gfx.get s.gfx row col <;> cases s.spriteOn x y n row col <;> decide

end Sys2Proof.Machine
end
